-- ==== Sys2Proof/Word.lean ====
section
/-! DEFINITION. The word types of the LTC frame synchronizer (spec/00_scope.md R9, R11). -/

namespace Sys2Proof

/-- One bit value as the block sees it: a 1-bit pin or a 1-bit register (R11 BitSample, R60). -/
abbrev Bit := Bool

/-- The 3-bit command word `cmd = {rst, bit_valid, bit_value}`, `rst` in bit 2 (R60). -/
abbrev CommandWord := BitVec 3

/-- The 80-bit window register `W`, and the FrameInteger `F` packed from it (R20, R90); bit 0 is the
oldest (earliest received) bit (R40). -/
abbrev FrameWord := BitVec 80

/-- The 16-bit sync field (R91). -/
abbrev SyncField := BitVec 16

/-- A decoded field value, 7 bits (R65). -/
abbrev FieldValue := BitVec 7

/-- One 8-bit character code (R115). -/
abbrev Char8 := BitVec 8

/-! A timestamp in ticks is a natural number: the pins and registers that carry one are `TS_W` bits wide (R8, R44),
`TS_W` is a parameter of the block, and every pin or register keeps the number modulo `2 ^ TS_W`
(`Machine.tsReg`).  DESIGN CHOICE, log entry 2. -/

end Sys2Proof
end

