-- ==== Sys2Proof/Config.lean ====
section
/-! DEFINITION. The parameters the block is built with and the wired constants (spec/00_scope.md R7, R8).
Nothing here is a free value: the spec leaves no value of this block open (spec/93_implementation_defined.md). -/

namespace Sys2Proof

/-- The nominal frame rates the validator may be built for: `FPS` is one of 24, 25, 30 (R8, D12). -/
inductive FrameRate where
  | fps24
  | fps25
  | fps30
  deriving DecidableEq, Repr

/-- The parameters of R8.  They are fixed when the block is built and cannot change while it runs (R27).
`STRICT_MODE` is no parameter here: it is fixed at 0 and no strict behaviour is built (R8, R131). -/
structure Config where
  /-- `TS_W`: width in bits of every timestamp. -/
  tsW : Nat
  /-- `TICKS_PER_MS`: timestamp ticks per millisecond. -/
  ticksPerMs : Nat
  /-- `FPS`: the rate assumed by the validator only. -/
  fps : FrameRate
  deriving DecidableEq, Repr

/-- The defaults of R8: 64-bit timestamps, 1 tick = 1 microsecond, 30 frames per second. -/
def Config.standard : Config := { tsW := 64, ticksPerMs := 1000, fps := .fps30 }

/-- `SPAN_TICKS = 32 * TICKS_PER_MS`: the fixed 32 ms (80 x 0.4 ms) in ticks (R7, R8, R124). -/
def Config.spanTicks (c : Config) : Nat := 32 * c.ticksPerMs

/-- The constraints R8 puts on the parameters: positive integers, and `2 ^ TS_W > SPAN_TICKS`. -/
def Config.wf (c : Config) : Bool :=
  decide (0 < c.tsW) && decide (0 < c.ticksPerMs) && decide (c.spanTicks < 2 ^ c.tsW)

/-- `SYNC_WORD`, `0xBFFC` = binary `1011111111111100` (R7). -/
def syncWord : SyncField := 0xBFFC#16

end Sys2Proof
end

