-- ==== Sys2Proof/Syntax.lean ====
section
/-! DEFINITION. The operations of the block: one constructor for each row of spec/opcode_table.json.
R5 fixes what an instruction is here: an operation of the block (RESET, IDLE, SUBMIT), a frame word in the
full window (LTC_FRAME, NO_SYNC), or a named sub-operation of SUBMIT (R62). -/

namespace Sys2Proof

/-- The fields of a frame word of format LTC80 (R63): everything in an LTC_FRAME word but the sync field,
which is constant, and the 36 bits no rule reads (R48). -/
structure FrameFields where
  /-- `ffff`, frame bits 3:0. -/
  framesUnits : BitVec 4
  /-- `FF`, frame bits 9:8. -/
  framesTens : BitVec 2
  /-- `d`, frame bit 10. -/
  dropFrame : Bit
  /-- `c`, frame bit 11. -/
  colorFrame : Bit
  /-- `ssss`, frame bits 19:16. -/
  secondsUnits : BitVec 4
  /-- `SSS`, frame bits 26:24. -/
  secondsTens : BitVec 3
  /-- `mmmm`, frame bits 35:32. -/
  minutesUnits : BitVec 4
  /-- `MMM`, frame bits 42:40. -/
  minutesTens : BitVec 3
  /-- `hhhh`, frame bits 51:48. -/
  hoursUnits : BitVec 4
  /-- `HH`, frame bits 57:56. -/
  hoursTens : BitVec 2
  deriving DecidableEq, Repr

/-- The instructions.  The operands of an operation are what its row and its rule name: `b` the bit value,
`ts` the timestamp presented beside the word (R60), the fields or the whole of a frame word. -/
inductive Instr where
  /-- RESET (R80). -/
  | reset
  /-- IDLE (R81). -/
  | idle
  /-- SUBMIT (R85). -/
  | submit (b : Bit) (ts : Nat)
  /-- LTC_FRAME (R64): a full window whose sync field matches; `ts` is the timestamp of the bit that
  completed it (R118). -/
  | ltcFrame (x : FrameFields) (ts : Nat)
  /-- NO_SYNC (R64, R94): any other full window. -/
  | noSync (f : FrameWord)
  /-- SHIFT_IN (R82), sub-operation 1. -/
  | shiftIn (b : Bit)
  /-- COUNT (R83), sub-operation 2. -/
  | count
  /-- FULL_TEST (R84), sub-operation 3. -/
  | fullTest
  /-- PACK (R90), sub-operation 4. -/
  | pack
  /-- SYNC_CHECK (R91), sub-operation 5. -/
  | syncCheck
  /-- EXTRACT_FRAMES (R100), sub-operation 6. -/
  | extractFrames
  /-- EXTRACT_SECONDS (R101), sub-operation 6. -/
  | extractSeconds
  /-- EXTRACT_MINUTES (R102), sub-operation 6. -/
  | extractMinutes
  /-- EXTRACT_HOURS (R103), sub-operation 6. -/
  | extractHours
  /-- FLAG_DROP (R104), sub-operation 7. -/
  | flagDrop
  /-- FLAG_COLOR (R105), sub-operation 7. -/
  | flagColor
  /-- VALIDATE (R130), sub-operation 8. -/
  | validate
  /-- FORMAT (R115 to R117), sub-operation 9. -/
  | format
  /-- TIMESTAMP (R118, R119), sub-operation 10. -/
  | timestamp (ts : Nat)
  /-- EMIT (R121), sub-operation 11. -/
  | emit
  /-- CLEAR (R93), sub-operation 12 after a match. -/
  | clear
  /-- RETAIN (R94), sub-operation 12 after a mismatch. -/
  | retain
  deriving DecidableEq, Repr

end Sys2Proof
end

