-- ==== Sys2Proof/WellFormed.lean ====
section
/-! DEFINITION. Which instruction terms the pins and the window can spell, for a block built with given
parameters: a timestamp operand fits its `TS_W` pins (R60), and a NO_SYNC word is not an LTC_FRAME word (R64). -/

namespace Sys2Proof

/-- A timestamp the `TS_W`-bit operand `bit_ts` can carry (R8, R60). -/
def fitsTsPins (c : Config) (ts : Nat) : Bool := decide (ts < 2 ^ c.tsW)

/-- A frame word whose sync field differs from `SYNC_WORD` (R64, row NO_SYNC). -/
def lacksSync (f : FrameWord) : Bool := f.extractLsb' 64 16 != syncWord

/-- The checks on a term, constructor by constructor. -/
def wellFormed (c : Config) : Instr → Bool
  | .reset => true
  | .idle => true
  | .submit _ ts => fitsTsPins c ts
  | .ltcFrame _ ts => fitsTsPins c ts
  | .noSync f => lacksSync f
  | .shiftIn _ => true
  | .count => true
  | .fullTest => true
  | .pack => true
  | .syncCheck => true
  | .extractFrames => true
  | .extractSeconds => true
  | .extractMinutes => true
  | .extractHours => true
  | .flagDrop => true
  | .flagColor => true
  | .validate => true
  | .format => true
  | .timestamp ts => fitsTsPins c ts
  | .emit => true
  | .clear => true
  | .retain => true

end Sys2Proof
end

