-- ==== Sys2Proof/Decode.lean ====
section
/-! DEFINITION. Decoding and encoding (spec/30_encoding.md).  Two kinds of word are decoded: the 3-bit command
word at the pins (R60, R61) and the 80-bit frame word in a full window (R63, R64).  Both decodings are total and
reserve nothing (R66).  A sub-operation of SUBMIT has no word of its own: its row carries SUBMIT's encoding with a
condition (spec/INDEX.md), so its word decodes to SUBMIT and the parts follow from R62. -/

namespace Sys2Proof

/-- What the block decodes: a command word with the operand `bit_ts` beside it (R60), or a full window with the
timestamp of the bit that completed it (R64, R118). -/
inductive Fetched where
  | command (cmd : CommandWord) (ts : Nat)
  | frame (f : FrameWord) (ts : Nat)
  deriving DecidableEq, Repr

/-- Why a numbered word is no word of this block: there is one command length and one frame length (R67). -/
inductive DecodeError where
  /-- A length that is neither that of a command word nor that of a frame word (R67). -/
  | noWordOfThisLength (nbits : Nat)
  /-- A bit set above the word's own bits: no pin and no window position carries it. -/
  | bitOutsideTheWord (w : Nat)
  deriving DecidableEq, Repr

/-- Decode of a command word, in the order of R147: `rst` first, then `bit_valid` (masks and matches of R61). -/
def decodeCommand (cmd : CommandWord) (ts : Nat) : Instr :=
  if cmd &&& 0b100#3 = 0b100#3 then .reset
  else if cmd &&& 0b110#3 = 0b000#3 then .idle
  else .submit (cmd.getLsbD 0) ts

/-- The mask of R64 over a frame word. -/
def ltcMask : FrameWord := 0xFFFF0000000000000000#80

/-- The match value of R64. -/
def ltcMatch : FrameWord := 0xBFFC0000000000000000#80

/-- A full window is an LTC_FRAME word: the exact comparison of R64, over all 16 sync bits and nothing else. -/
def isLtcFrame (f : FrameWord) : Bool := f &&& ltcMask == ltcMatch

/-- The fields of a frame word at their fixed offsets (R47, R63). -/
def fieldsOf (f : FrameWord) : FrameFields where
  framesUnits := f.extractLsb' 0 4
  framesTens := f.extractLsb' 8 2
  dropFrame := f.getLsbD 10
  colorFrame := f.getLsbD 11
  secondsUnits := f.extractLsb' 16 4
  secondsTens := f.extractLsb' 24 3
  minutesUnits := f.extractLsb' 32 4
  minutesTens := f.extractLsb' 40 3
  hoursUnits := f.extractLsb' 48 4
  hoursTens := f.extractLsb' 56 2

/-- Decode of a frame word (R64): LTC_FRAME on a match, NO_SYNC for every other word. -/
def decodeFrame (f : FrameWord) (ts : Nat) : Instr :=
  if isLtcFrame f then .ltcFrame (fieldsOf f) ts else .noSync f

/-- The decoder, total on everything the block fetches. -/
def decode : Fetched → Instr
  | .command cmd ts => decodeCommand cmd ts
  | .frame f ts => decodeFrame f ts

/-- Decode of a word given as a number of `nbits` bits, bit 0 least significant: up to eight bits for a command
word (3 bits in whole bytes), 80 for a frame word, and no other length (R67). -/
def decodeBits (nbits w : Nat) (ts : Nat) : Except DecodeError Instr :=
  if nbits = 80 then
    if w < 2 ^ 80 then .ok (decode (.frame (BitVec.ofNat 80 w) ts)) else .error (.bitOutsideTheWord w)
  else if 3 ≤ nbits ∧ nbits ≤ 8 then
    if w < 2 ^ 3 then .ok (decode (.command (BitVec.ofNat 3 w) ts)) else .error (.bitOutsideTheWord w)
  else .error (.noWordOfThisLength nbits)

/-- What the decoder reads from a word numbered as spec/opcode_table.json numbers it; the operand `bit_ts`,
which the table gives no bits, is zero. -/
def decodeTableWord (nbits w : Nat) : Option Instr :=
  match decodeBits nbits w 0 with
  | .ok i => some i
  | .error _ => none

/-- The frame word of some fields, drawn as in R63 with bit 79 on the left; every unread bit 0 (as R70). -/
def encodeFrame (x : FrameFields) : FrameWord :=
  syncWord ++ 0#6 ++ x.hoursTens ++ 0#4 ++ x.hoursUnits ++ 0#5 ++ x.minutesTens ++ 0#4 ++ x.minutesUnits ++
    0#5 ++ x.secondsTens ++ 0#4 ++ x.secondsUnits ++ 0#4 ++ BitVec.ofBool x.colorFrame ++
    BitVec.ofBool x.dropFrame ++ x.framesTens ++ 0#4 ++ x.framesUnits

/-- The SUBMIT command word `01b` (R61). -/
def submitWord (b : Bit) : CommandWord := 0b01#2 ++ BitVec.ofBool b

/-- The encoder: the word of an instruction, from R61 and R63, ignored bits 0 (as R69 and R70 write them).  A
sub-operation is spelled by the SUBMIT it is part of (R62); where it has no operand, that SUBMIT's are shown as 0. -/
def encode : Instr → Fetched
  | .reset => .command 0b100#3 0
  | .idle => .command 0b000#3 0
  | .submit b ts => .command (submitWord b) ts
  | .ltcFrame x ts => .frame (encodeFrame x) ts
  | .noSync f => .frame f 0
  | .shiftIn b => .command (submitWord b) 0
  | .count => .command (submitWord false) 0
  | .fullTest => .command (submitWord false) 0
  | .pack => .command (submitWord false) 0
  | .syncCheck => .command (submitWord false) 0
  | .extractFrames => .command (submitWord false) 0
  | .extractSeconds => .command (submitWord false) 0
  | .extractMinutes => .command (submitWord false) 0
  | .extractHours => .command (submitWord false) 0
  | .flagDrop => .command (submitWord false) 0
  | .flagColor => .command (submitWord false) 0
  | .validate => .command (submitWord false) 0
  | .format => .command (submitWord false) 0
  | .timestamp ts => .command (submitWord false) ts
  | .emit => .command (submitWord false) 0
  | .clear => .command (submitWord false) 0
  | .retain => .command (submitWord false) 0

/-- The instruction whose word spells `i`: `i` itself, and for a sub-operation the SUBMIT it is part of (R62). -/
def spelledBy : Instr → Instr
  | .reset => .reset
  | .idle => .idle
  | .submit b ts => .submit b ts
  | .ltcFrame x ts => .ltcFrame x ts
  | .noSync f => .noSync f
  | .shiftIn b => .submit b 0
  | .count => .submit false 0
  | .fullTest => .submit false 0
  | .pack => .submit false 0
  | .syncCheck => .submit false 0
  | .extractFrames => .submit false 0
  | .extractSeconds => .submit false 0
  | .extractMinutes => .submit false 0
  | .extractHours => .submit false 0
  | .flagDrop => .submit false 0
  | .flagColor => .submit false 0
  | .validate => .submit false 0
  | .format => .submit false 0
  | .timestamp ts => .submit false ts
  | .emit => .submit false 0
  | .clear => .submit false 0
  | .retain => .submit false 0

/-- The test encoder `enc(hh,mm,ss,ff,df,cf)` of R70; no part of the hardware. -/
def enc (hh mm ss ff : Nat) (df cf : Bit) : FrameWord :=
  BitVec.ofNat 80
    ((ff % 10) ||| ((ff / 10) <<< 8)
      ||| (df.toNat <<< 10) ||| (cf.toNat <<< 11)
      ||| ((ss % 10) <<< 16) ||| ((ss / 10) <<< 24)
      ||| ((mm % 10) <<< 32) ||| ((mm / 10) <<< 40)
      ||| ((hh % 10) <<< 48) ||| ((hh / 10) <<< 56)
      ||| (0xBFFC <<< 64))

end Sys2Proof
end

