-- ==== Sys2Proof/Machine/State.lean ====
section
/-! DEFINITION. The state of the block as plain data (spec/10_state.md), the pins, and the reasons a step can
stop. -/

namespace Sys2Proof.Machine

/-- The input pins sampled at one rising edge of `clk` (R12, R60). -/
structure Pins where
  rst : Bit
  bitValid : Bit
  bitValue : Bit
  /-- `bit_ts`; the pin carries it modulo `2 ^ TS_W`. -/
  bitTs : Nat
  deriving DecidableEq, Repr

/-- The payload registers (R25): all event registers but `EV_VALID`. -/
structure Payload where
  /-- `EV_START_TS`, `TS_W` bits. -/
  startTs : Nat
  /-- `EV_END_TS`, `TS_W` bits. -/
  endTs : Nat
  /-- `EV_STR`, 11 character codes, character 0 in bits 87:80 (R43). -/
  str : BitVec 88
  /-- `EV_HH`. -/
  hh : FieldValue
  /-- `EV_MM`. -/
  mm : FieldValue
  /-- `EV_SS`. -/
  ss : FieldValue
  /-- `EV_FF`. -/
  ff : FieldValue
  /-- `EV_DF`. -/
  df : Bit
  /-- `EV_CF`. -/
  cf : Bit
  /-- `EV_VAL`. -/
  val : BitVec 6
  deriving DecidableEq, Repr

/-- Every payload register 0 (R33). -/
def Payload.zero : Payload :=
  { startTs := 0, endTs := 0, str := 0#88, hh := 0#7, mm := 0#7, ss := 0#7, ff := 0#7,
    df := false, cf := false, val := 0#6 }

/-- The combinational values of one SUBMIT (R26, R28): what its sub-operations hand to one another.  They are
no registers of the block: they are quiet before and after every operation.  DESIGN CHOICE, log entry 4. -/
structure Wires where
  /-- `W1`, the window after the shift-in (R82). -/
  w1 : FrameWord
  /-- `C1`, the count after the update (R83). -/
  c1 : Fin 81
  /-- `full` (R84). -/
  full : Bool
  /-- `F`, the packed frame (R90). -/
  f : FrameWord
  /-- `sync_match` (R91). -/
  syncMatch : Bool
  /-- `ff_units` and `frames` (R100). -/
  ffUnits : BitVec 4
  frames : FieldValue
  /-- `ss_units` and `seconds` (R101). -/
  ssUnits : BitVec 4
  seconds : FieldValue
  /-- `mm_units` and `minutes` (R102). -/
  mmUnits : BitVec 4
  minutes : FieldValue
  /-- `hh_units` and `hours` (R103). -/
  hhUnits : BitVec 4
  hours : FieldValue
  /-- `drop_frame` (R104). -/
  dropFrame : Bit
  /-- `color_frame` (R105). -/
  colorFrame : Bit
  /-- `val` (R130). -/
  val : BitVec 6
  /-- `str` (R117). -/
  str : BitVec 88
  /-- `end_ts` (R118). -/
  endTs : Nat
  /-- `start_ts` (R119). -/
  startTs : Nat
  deriving DecidableEq, Repr

/-- No SUBMIT in progress. -/
def Wires.quiet : Wires :=
  { w1 := 0#80, c1 := 0, full := false, f := 0#80, syncMatch := false,
    ffUnits := 0#4, frames := 0#7, ssUnits := 0#4, seconds := 0#7, mmUnits := 0#4, minutes := 0#7,
    hhUnits := 0#4, hours := 0#7, dropFrame := false, colorFrame := false, val := 0#6, str := 0#88,
    endTs := 0, startTs := 0 }

/-- The state: the registers of R20, R21 and R25, the parameters the block was built with (R8), and beside
them two fields of the model's own: the combinational values (log entry 4) and the samples the caller has
ready for the coming clock edges (log entry 3). -/
structure State where
  /-- The parameters of R8; no operation writes them (R27).  DESIGN CHOICE, log entry 1. -/
  cfg : Config
  /-- `W` (R20). -/
  w : FrameWord
  /-- `CNT`, typed `0..80` as R29 allows (R21).  Log entry 5. -/
  cnt : Fin 81
  /-- `EV_VALID` (R25). -/
  evValid : Bit
  /-- The payload registers (R25). -/
  payload : Payload
  /-- Combinational values of the SUBMIT in progress (R28). -/
  wires : Wires
  /-- What the caller presents at the coming clock edges, the next one first (R6, R12). -/
  inputs : List Pins
  deriving DecidableEq, Repr

/-- What a step can stop with.  The block has no fault: none of its error classes traps, is recorded or is
fatal (R10, R140), so this type has no member and nothing raises it. -/
inductive Fault where
  deriving DecidableEq, Repr

/-- Why the model has no meaning for an instruction. -/
inductive Refusal where
  /-- Raised by an arm of `exec` whose instruction has no meaning yet (none is left); safe. -/
  | notModelled (mnemonic : String)
  deriving DecidableEq, Repr

/-- The three error classes of the source's taxonomy, E1 to E3 (R140).  They are no fault reasons: see
`State.raiseError`. -/
inductive ErrorClass where
  /-- E1, SyncMismatch (R141): the only class an operation raises. -/
  | syncMismatch
  /-- E2, malformed or out-of-range BCD (R142): raised by nothing. -/
  | malformedBcd
  /-- E3, caller-contract violation (R143): raised by nothing. -/
  | callerContract
  deriving DecidableEq, Repr

/-- The two phases of R22. -/
inductive Phase where
  | accumulating
  | search
  deriving DecidableEq, Repr

/-- The output pins (R12): each shows the register of the same name. -/
structure OutputPins where
  evtValid : Bit
  evtStartTs : Nat
  evtEndTs : Nat
  evtStr : BitVec 88
  evtHh : FieldValue
  evtMm : FieldValue
  evtSs : FieldValue
  evtFf : FieldValue
  evtDf : Bit
  evtCf : Bit
  evtVal : BitVec 6
  deriving DecidableEq, Repr

/-- The reset state of a block with given parameters (R33, R162), the caller's samples beside it. -/
def State.resetWith (c : Config) (inputs : List Pins) : State :=
  { cfg := c, w := 0#80, cnt := 0, evValid := false, payload := .zero, wires := .quiet, inputs := inputs }

/-- The machine right after reset (R33, R162): the block at the default parameters, no sample presented yet. -/
def State.reset : State := State.resetWith Config.standard []

end Sys2Proof.Machine
end

