-- ==== Sys2Proof/Machine/Ops.lean ====
section
/-! DEFINITION. The named operations over the registers, the window and the pins: every later definition reads
and writes State through them. -/

namespace Sys2Proof.Machine

/-- What a `TS_W`-bit pin or register holds of a number (R8, R44). -/
def tsReg (c : Config) (v : Nat) : Nat := v % 2 ^ c.tsW

/-- `W` and `CNT` are written together, at the edge that ends the operation (R10, R50 (b)). -/
def State.writeWindow (s : State) (w : FrameWord) (cnt : Fin 81) : State := { s with w := w, cnt := cnt }

/-- An operation that emits no event: `EV_VALID <- 0`, payload unchanged (R25). -/
def State.dropValid (s : State) : State := { s with evValid := false }

/-- An operation that emits an event: `EV_VALID <- 1 ; payload <- ev` (R85, R121). -/
def State.present (s : State) (p : Payload) : State := { s with evValid := true, payload := p }

/-- Give the combinational values of the SUBMIT in progress. -/
def State.withWires (s : State) (x : Wires) : State := { s with wires := x }

/-- The end of an operation: nothing combinational is kept (R28). -/
def State.settle (s : State) : State := { s with wires := .quiet }

/-- The caller's samples. -/
def State.withInputs (s : State) (l : List Pins) : State := { s with inputs := l }

/-- `MemWrite(79, 1, b)`: the shift-in `{b, W[79:1]}`, the only write to the window (R10, R82). -/
def shiftedIn (w : FrameWord) (b : Bit) : FrameWord := BitVec.ofBool b ++ w.extractLsb' 1 79

/-- `min(CNT + 1, 80)` (R83). -/
def countedUp (c : Fin 81) : Fin 81 := ⟨min (c.val + 1) 80, by omega⟩

/-- `CNT == 80` as a value of the count register. -/
def fullCount : Fin 81 := 80

/-- `raise <Class>()` (R10): it has no architectural effect of its own.  Nothing is recorded, no output
changes, no control goes anywhere (R140, R148); and so there is no return either (R150). -/
def State.raiseError (s : State) (_e : ErrorClass) : State := s

/-- The abstract window `WIN = [W[80 - CNT], ..., W[79]]`, oldest first (R23). -/
def State.win (s : State) : List Bit :=
  (List.range s.cnt.val).map fun k => s.w.getLsbD (80 - s.cnt.val + k)

/-- The phase (R22): SEARCH when the window is full. -/
def State.phase (s : State) : Phase := if s.cnt = fullCount then .search else .accumulating

/-- The output pins show the event registers, and nothing shows `W` or `CNT` (R12, R25, R31). -/
def State.outputs (s : State) : OutputPins :=
  { evtValid := s.evValid, evtStartTs := s.payload.startTs, evtEndTs := s.payload.endTs,
    evtStr := s.payload.str, evtHh := s.payload.hh, evtMm := s.payload.mm, evtSs := s.payload.ss,
    evtFf := s.payload.ff, evtDf := s.payload.df, evtCf := s.payload.cf, evtVal := s.payload.val }

/-- The event the host may sample in this clock: the payload, meaningful only while `evt_valid = 1` (R25, R145). -/
def State.event (s : State) : Option Payload := if s.evValid then some s.payload else none

/-- The command word at the pins, `{rst, bit_valid, bit_value}` (R60). -/
def Pins.cmd (p : Pins) : CommandWord :=
  BitVec.ofBool p.rst ++ BitVec.ofBool p.bitValid ++ BitVec.ofBool p.bitValue

/-- No sample presented and no reset: what the pins show when the caller has stopped (R61, R163). -/
def Pins.idle : Pins := { rst := false, bitValid := false, bitValue := false, bitTs := 0 }

/-- Pins that spell a command word with an operand beside it. -/
def Pins.ofCommand (cmd : CommandWord) (ts : Nat) : Pins :=
  { rst := cmd.getLsbD 2, bitValid := cmd.getLsbD 1, bitValue := cmd.getLsbD 0, bitTs := ts }

/-- The pins that present one sample (R60, notation `BIT b @t` of R69). -/
def Pins.submit (b : Bit) (ts : Nat) : Pins :=
  { rst := false, bitValid := true, bitValue := b, bitTs := ts }

/-- What the pins show at the next edge; with nothing more from the caller, no sample. -/
def State.pins (s : State) : Pins := s.inputs.headD .idle

/-- The samples left after an edge. -/
def State.afterSample (s : State) : State := s.withInputs s.inputs.tail

/-- What the block fetches at the next edge: the command word and the operand its `TS_W` pins carry (R60). -/
def State.fetch (s : State) : Fetched := .command s.pins.cmd (tsReg s.cfg s.pins.bitTs)

/-- The whole register file of RESET's pseudocode (R80): every register 0, parameters and caller untouched. -/
def State.cleared (s : State) : State := State.resetWith s.cfg s.inputs

/-- Do something only when the window is full after the update (R62: PACK and SYNC_CHECK). -/
def State.whenFull (s : State) (g : State → State) : State := if s.wires.full then g s else s

/-- Do something only when the window is full and the sync field matched (R62: sub-operations 6 to 11, CLEAR). -/
def State.whenMatch (s : State) (g : State → State) : State :=
  if s.wires.full && s.wires.syncMatch then g s else s

/-- Do something only when the window is full and the sync field did not match (R62: RETAIN). -/
def State.whenMismatch (s : State) (g : State → State) : State :=
  if s.wires.full && !s.wires.syncMatch then g s else s

end Sys2Proof.Machine
end

