-- ==== Sys2Proof/Machine/Operands.lean ====
section
/-! DEFINITION. Operand forms: the field read, the assembly of a two-digit field, the characters of the string
and the two timestamps (spec/00_scope.md R10, 30_encoding.md R65, 43_format_event.md R115 to R120). -/

namespace Sys2Proof.Machine

/-- `MemRead(off, w) = F[off+w-1 : off]`, the bit at `off` least significant (R10, R41). -/
def memRead (f : FrameWord) (off w : Nat) : BitVec w := f.extractLsb' off w

/-- `units + 10 * tens` in 7 bits (R65): both zero-extended, no carry from units into tens. -/
def assembleField {u t : Nat} (units : BitVec u) (tens : BitVec t) : FieldValue :=
  units.setWidth 7 + 10#7 * tens.setWidth 7

/-- `chr(d) = 0x30 + d` (R115). -/
def digitChar (d : Nat) : Char8 := BitVec.ofNat 8 (0x30 + d)

/-- The tens and the units character of a field value (R115): the decimal digits of the sum. -/
def dec2 (v : FieldValue) : Char8 × Char8 := (digitChar (v.toNat / 10), digitChar (v.toNat % 10))

/-- `':'`. -/
def colonChar : Char8 := 0x3A#8

/-- `';'`. -/
def semicolonChar : Char8 := 0x3B#8

/-- The separator before the frames (R116). -/
def separatorChar (dropFrame : Bit) : Char8 := if dropFrame then semicolonChar else colonChar

/-- The eleven characters of the timecode string, in string order (R117). -/
def timecodeChars (hours minutes seconds frames : FieldValue) (dropFrame : Bit) : List Char8 :=
  [(dec2 hours).1, (dec2 hours).2, colonChar, (dec2 minutes).1, (dec2 minutes).2, colonChar,
    (dec2 seconds).1, (dec2 seconds).2, separatorChar dropFrame, (dec2 frames).1, (dec2 frames).2]

/-- Characters side by side, the first in the most significant byte: character `k` of eleven lies in bits
`87 - 8k` down to `80 - 8k` (R43). -/
def packChars (l : List Char8) : BitVec 88 := l.foldl (fun acc c => (acc <<< 8) ||| c.setWidth 88) 0#88

/-- `EV_STR` (R117). -/
def timecodeString (hours minutes seconds frames : FieldValue) (dropFrame : Bit) : BitVec 88 :=
  packChars (timecodeChars hours minutes seconds frames dropFrame)

/-- Character `k` of an 88-bit string (R43). -/
def charAt (v : BitVec 88) (k : Nat) : Char8 := v.extractLsb' (80 - 8 * k) 8

/-- `end_ts = ts`, as the `TS_W`-bit operand carries it (R118). -/
def endTimestamp (c : Config) (ts : Nat) : Nat := tsReg c ts

/-- `start_ts = (ts - SPAN_TICKS) mod 2^TS_W`: exact over the integers, then narrowed; it wraps, it does not
saturate (R119, R120). -/
def startTimestamp (c : Config) (ts : Nat) : Nat :=
  (((ts : Int) - (c.spanTicks : Int)) % (2 : Int) ^ c.tsW).toNat

end Sys2Proof.Machine
end

