-- ==== Sys2Proof/Machine/Flags.lean ====
section
/-! DEFINITION. Predicates and flags: the combinational tests of a SUBMIT (spec/10_state.md R26), the two decoded
flags, the six validator flags (44_rate_validator.md R130) and the error class an operation raises (R141). -/

namespace Sys2Proof.Machine

/-- `full = (C1 == 80)` (R84). -/
def isFull (c1 : Fin 81) : Bool := c1 == fullCount

/-- `sync_match = (F[79:64] == 0xBFFC)` (R91). -/
def syncMatches (f : FrameWord) : Bool := memRead f 64 16 == syncWord

/-- `drop_frame = F[10]` (R104). -/
def dropFrameFlag (f : FrameWord) : Bit := memRead f 10 1 == 1#1

/-- `color_frame = F[11]` (R105). -/
def colorFrameFlag (f : FrameWord) : Bit := memRead f 11 1 == 1#1

/-- The number `FPS` stands for (R8). -/
def fpsValue : FrameRate → Nat
  | .fps24 => 24
  | .fps25 => 25
  | .fps30 => 30

/-- `val[0]`, bcd_ok (R130). -/
def bcdOk (ffUnits ssUnits mmUnits hhUnits : BitVec 4) : Bool :=
  decide (ffUnits.toNat ≤ 9) && decide (ssUnits.toNat ≤ 9) && decide (mmUnits.toNat ≤ 9) &&
    decide (hhUnits.toNat ≤ 9)

/-- `val[1]`, ff_ok (R130). -/
def framesOk (fps : FrameRate) (frames : FieldValue) : Bool := decide (frames.toNat < fpsValue fps)

/-- `val[2]`, ss_ok, and `val[3]`, mm_ok (R130). -/
def sixtyOk (v : FieldValue) : Bool := decide (v.toNat ≤ 59)

/-- `val[4]`, hh_ok (R130). -/
def hoursOk (hours : FieldValue) : Bool := decide (hours.toNat ≤ 23)

/-- `val[5]`, df_ok (R130). -/
def dropFrameOk (fps : FrameRate) (dropFrame : Bit) : Bool := !dropFrame || fpsValue fps == 30

/-- The six flags side by side, `val[0]` least significant (R9, R130). -/
def packFlags (dfOk hhOk mmOk ssOk ffOk bcdOk : Bool) : BitVec 6 :=
  BitVec.ofBool dfOk ++ BitVec.ofBool hhOk ++ BitVec.ofBool mmOk ++ BitVec.ofBool ssOk ++
    BitVec.ofBool ffOk ++ BitVec.ofBool bcdOk

/-- The validator flags `val` of the decoded values (R130). -/
def validatorFlags (fps : FrameRate) (x : Wires) : BitVec 6 :=
  packFlags (dropFrameOk fps x.dropFrame) (hoursOk x.hours) (sixtyOk x.minutes) (sixtyOk x.seconds)
    (framesOk fps x.frames) (bcdOk x.ffUnits x.ssUnits x.mmUnits x.hhUnits)

/-- The error class a SUBMIT of bit `b` raises (R141, R147): E1 when the window is full after the shift-in and
its sync field does not match; nothing else is ever raised. -/
def submitRaises (s : State) (b : Bit) : Option ErrorClass :=
  if isFull (countedUp s.cnt) && !syncMatches (shiftedIn s.w b) then some .syncMismatch else none

end Sys2Proof.Machine
end

