-- ==== Sys2Proof/Machine/BcdExtract.lean ====
section
/-! DEFINITION. The BCD timecode field extractor (spec/42_bcd_extract.md): four fields and two flags, performed
when the window is full and the sync field matched.  No range is checked (R106). -/

namespace Sys2Proof.Machine

/-- EXTRACT_FRAMES (R100): units at 0, 4 bits; tens at 8, 2 bits. -/
def extractFramesOp (s : State) : State := s.whenMatch fun s =>
  s.withWires { s.wires with
    ffUnits := memRead s.wires.f 0 4
    frames := assembleField (memRead s.wires.f 0 4) (memRead s.wires.f 8 2) }

/-- EXTRACT_SECONDS (R101): units at 16, 4 bits; tens at 24, 3 bits. -/
def extractSecondsOp (s : State) : State := s.whenMatch fun s =>
  s.withWires { s.wires with
    ssUnits := memRead s.wires.f 16 4
    seconds := assembleField (memRead s.wires.f 16 4) (memRead s.wires.f 24 3) }

/-- EXTRACT_MINUTES (R102): units at 32, 4 bits; tens at 40, 3 bits. -/
def extractMinutesOp (s : State) : State := s.whenMatch fun s =>
  s.withWires { s.wires with
    mmUnits := memRead s.wires.f 32 4
    minutes := assembleField (memRead s.wires.f 32 4) (memRead s.wires.f 40 3) }

/-- EXTRACT_HOURS (R103): units at 48, 4 bits; tens at 56, 2 bits. -/
def extractHoursOp (s : State) : State := s.whenMatch fun s =>
  s.withWires { s.wires with
    hhUnits := memRead s.wires.f 48 4
    hours := assembleField (memRead s.wires.f 48 4) (memRead s.wires.f 56 2) }

/-- FLAG_DROP (R104). -/
def flagDropOp (s : State) : State := s.whenMatch fun s =>
  s.withWires { s.wires with dropFrame := dropFrameFlag s.wires.f }

/-- FLAG_COLOR (R105). -/
def flagColorOp (s : State) : State := s.whenMatch fun s =>
  s.withWires { s.wires with colorFrame := colorFrameFlag s.wires.f }

/-- The meaning of EXTRACT_FRAMES. -/
def execExtractFrames (s : State) : Host.Outcome State Fault Refusal := .next (extractFramesOp s)

/-- The meaning of EXTRACT_SECONDS. -/
def execExtractSeconds (s : State) : Host.Outcome State Fault Refusal := .next (extractSecondsOp s)

/-- The meaning of EXTRACT_MINUTES. -/
def execExtractMinutes (s : State) : Host.Outcome State Fault Refusal := .next (extractMinutesOp s)

/-- The meaning of EXTRACT_HOURS. -/
def execExtractHours (s : State) : Host.Outcome State Fault Refusal := .next (extractHoursOp s)

/-- The meaning of FLAG_DROP. -/
def execFlagDrop (s : State) : Host.Outcome State Fault Refusal := .next (flagDropOp s)

/-- The meaning of FLAG_COLOR. -/
def execFlagColor (s : State) : Host.Outcome State Fault Refusal := .next (flagColorOp s)

end Sys2Proof.Machine
end

