-- ==== Sys2Proof/Machine/BitWindow.lean ====
section
/-! DEFINITION. The bit window (spec/40_bit_window.md): RESET, IDLE, and the first three sub-operations of SUBMIT. -/

namespace Sys2Proof.Machine

/-- RESET (R80): every register 0; a sample presented in the same clock is discarded. -/
def execReset (s : State) : Host.Outcome State Fault Refusal := .next s.cleared

/-- IDLE (R81): `EV_VALID <- 0`; `W`, `CNT` and the payload keep their values. -/
def execIdle (s : State) : Host.Outcome State Fault Refusal := .next s.dropValid.settle

/-- SHIFT_IN (R82): `W1 = {b, W[79:1]}`; what is written to `W` is decided later. -/
def shiftInOp (b : Bit) (s : State) : State := s.withWires { s.wires with w1 := shiftedIn s.w b }

/-- COUNT (R83): `C1 = min(CNT + 1, 80)`. -/
def countOp (s : State) : State := s.withWires { s.wires with c1 := countedUp s.cnt }

/-- The end of a SUBMIT whose window is not full (R84): `W <- W1 ; CNT <- C1 ; EV_VALID <- 0`. -/
def keepAccumulating (s : State) : State := (s.writeWindow s.wires.w1 s.wires.c1).dropValid

/-- FULL_TEST (R84): `full = (C1 == 80)`; when it is 0 the SUBMIT ends here. -/
def fullTestOp (s : State) : State :=
  let t := s.withWires { s.wires with full := isFull s.wires.c1 }
  if isFull s.wires.c1 then t else keepAccumulating t

/-- The meaning of SHIFT_IN. -/
def execShiftIn (b : Bit) (s : State) : Host.Outcome State Fault Refusal := .next (shiftInOp b s)

/-- The meaning of COUNT. -/
def execCount (s : State) : Host.Outcome State Fault Refusal := .next (countOp s)

/-- The meaning of FULL_TEST. -/
def execFullTest (s : State) : Host.Outcome State Fault Refusal := .next (fullTestOp s)

end Sys2Proof.Machine
end

