-- ==== Sys2Proof/Machine/FormatEvent.lean ====
section
/-! DEFINITION. String formatting, timestamps and event emission (spec/43_format_event.md): FORMAT, TIMESTAMP,
EMIT, performed when the window is full and the sync field matched. -/

namespace Sys2Proof.Machine

/-- FORMAT (R115 to R117). -/
def formatOp (s : State) : State := s.whenMatch fun s =>
  s.withWires { s.wires with
    str := timecodeString s.wires.hours s.wires.minutes s.wires.seconds s.wires.frames s.wires.dropFrame }

/-- TIMESTAMP (R118 to R120): the end is the timestamp of this SUBMIT, the start lies the fixed span before it. -/
def timestampOp (ts : Nat) (s : State) : State := s.whenMatch fun s =>
  s.withWires { s.wires with endTs := endTimestamp s.cfg ts, startTs := startTimestamp s.cfg ts }

/-- The event the decoded values make (R121). -/
def Wires.toPayload (x : Wires) : Payload :=
  { startTs := x.startTs, endTs := x.endTs, str := x.str, hh := x.hours, mm := x.minutes, ss := x.seconds,
    ff := x.frames, df := x.dropFrame, cf := x.colorFrame, val := x.val }

/-- EMIT (R121): `EV_VALID <- 1` and every payload register. -/
def emitOp (s : State) : State := s.whenMatch fun s => s.present s.wires.toPayload

/-- The meaning of FORMAT. -/
def execFormat (s : State) : Host.Outcome State Fault Refusal := .next (formatOp s)

/-- The meaning of TIMESTAMP. -/
def execTimestamp (ts : Nat) (s : State) : Host.Outcome State Fault Refusal := .next (timestampOp ts s)

/-- The meaning of EMIT. -/
def execEmit (s : State) : Host.Outcome State Fault Refusal := .next (emitOp s)

end Sys2Proof.Machine
end

