-- ==== Sys2Proof/Machine/RateValidator.lean ====
section
/-! DEFINITION. The frame-rate validator (spec/44_rate_validator.md): VALIDATE, a side-band that gates nothing
(R131). -/

namespace Sys2Proof.Machine

/-- VALIDATE (R130), when full and matched. -/
def validateOp (s : State) : State := s.whenMatch fun s =>
  s.withWires { s.wires with val := validatorFlags s.cfg.fps s.wires }

/-- The meaning of VALIDATE. -/
def execValidate (s : State) : Host.Outcome State Fault Refusal := .next (validateOp s)

end Sys2Proof.Machine
end

