-- ==== Sys2Proof/Machine/SyncDetect.lean ====
section
/-! DEFINITION. Frame synchronization (spec/41_sync_detect.md): PACK, SYNC_CHECK, CLEAR, RETAIN.  Each is
performed only when R62 says so. -/

namespace Sys2Proof.Machine

/-- PACK (R90), when full: `F[i] = W1[i]`. -/
def packOp (s : State) : State := s.whenFull fun s => s.withWires { s.wires with f := s.wires.w1 }

/-- SYNC_CHECK (R91), when full: compares `F[79:64]`; a mismatch raises SyncMismatch, which has no effect of
its own (R141). -/
def syncCheckOp (s : State) : State := s.whenFull fun s =>
  let t := s.withWires { s.wires with syncMatch := syncMatches s.wires.f }
  if syncMatches s.wires.f then t else t.raiseError .syncMismatch

/-- CLEAR (R93), when full and matched: `W <- 0 ; CNT <- 0`. -/
def clearOp (s : State) : State := s.whenMatch fun s => s.writeWindow 0#80 0

/-- RETAIN (R94), when full and not matched: `W <- W1 ; CNT <- 80 ; EV_VALID <- 0`. -/
def retainOp (s : State) : State := s.whenMismatch fun s => (s.writeWindow s.wires.w1 fullCount).dropValid

/-- The meaning of PACK. -/
def execPack (s : State) : Host.Outcome State Fault Refusal := .next (packOp s)

/-- The meaning of SYNC_CHECK. -/
def execSyncCheck (s : State) : Host.Outcome State Fault Refusal := .next (syncCheckOp s)

/-- The meaning of CLEAR. -/
def execClear (s : State) : Host.Outcome State Fault Refusal := .next (clearOp s)

/-- The meaning of RETAIN. -/
def execRetain (s : State) : Host.Outcome State Fault Refusal := .next (retainOp s)

end Sys2Proof.Machine
end

