-- ==== Sys2Proof/Machine/Submit.lean ====
section
/-! DEFINITION. SUBMIT as its sub-operations in the order of spec/30_encoding.md R62, and the two kinds of frame
word a full window can hold (R64). -/

namespace Sys2Proof.Machine

/-- Sub-operations 6 to 12 of R62: what follows SYNC_CHECK in a decode attempt. -/
def afterSyncCheck (ts : Nat) (s : State) : State :=
  retainOp (clearOp (emitOp (timestampOp ts (formatOp (validateOp (flagColorOp (flagDropOp
    (extractHoursOp (extractMinutesOp (extractSecondsOp (extractFramesOp s)))))))))))

/-- The twelve sub-operations of R62 in their order, on a SUBMIT of `b` with timestamp `ts`. -/
def submitOps (b : Bit) (ts : Nat) (s : State) : State :=
  afterSyncCheck ts (syncCheckOp (packOp (fullTestOp (countOp (shiftInOp b s)))))

/-- SUBMIT (R85): one atomic operation; nothing combinational outlives it (R28, R46). -/
def execSubmit (b : Bit) (ts : Nat) (s : State) : Host.Outcome State Fault Refusal :=
  .next (submitOps b ts s.settle).settle

/-- A decode attempt that finds a given frame word in the full window, its sync field compared (R62, 6 to 12). -/
def attemptOn (f : FrameWord) (isMatch : Bool) (ts : Nat) (s : State) : State :=
  (afterSyncCheck ts (s.withWires
    { Wires.quiet with w1 := f, c1 := fullCount, full := true, f := f, syncMatch := isMatch })).settle

/-- LTC_FRAME (R64; R100 to R105, R115 to R121, R130, R93): the event is emitted and the window cleared. -/
def execLtcFrame (x : FrameFields) (ts : Nat) (s : State) : Host.Outcome State Fault Refusal :=
  .next (attemptOn (encodeFrame x) true ts s)

/-- NO_SYNC (R64, R94, R141): SyncMismatch; no event, and the window as it is after the shift-in is kept. -/
def execNoSync (f : FrameWord) (s : State) : Host.Outcome State Fault Refusal :=
  .next (attemptOn f false 0 (s.raiseError .syncMismatch))

end Sys2Proof.Machine
end

