-- ==== Sys2Proof/Machine/Dispatch.lean ====
section
/-! DEFINITION. The meaning of every instruction, one arm each. -/

namespace Sys2Proof.Machine

def exec (i : Instr) (s : State) : Host.Outcome State Fault Refusal :=
  match i with
  | .reset => Sys2Proof.Machine.execReset s
  | .idle => Sys2Proof.Machine.execIdle s
  | .submit b ts => Sys2Proof.Machine.execSubmit b ts s
  | .ltcFrame x ts => Sys2Proof.Machine.execLtcFrame x ts s
  | .noSync f => Sys2Proof.Machine.execNoSync f s
  | .shiftIn b => Sys2Proof.Machine.execShiftIn b s
  | .count => Sys2Proof.Machine.execCount s
  | .fullTest => Sys2Proof.Machine.execFullTest s
  | .pack => Sys2Proof.Machine.execPack s
  | .syncCheck => Sys2Proof.Machine.execSyncCheck s
  | .extractFrames => Sys2Proof.Machine.execExtractFrames s
  | .extractSeconds => Sys2Proof.Machine.execExtractSeconds s
  | .extractMinutes => Sys2Proof.Machine.execExtractMinutes s
  | .extractHours => Sys2Proof.Machine.execExtractHours s
  | .flagDrop => Sys2Proof.Machine.execFlagDrop s
  | .flagColor => Sys2Proof.Machine.execFlagColor s
  | .validate => Sys2Proof.Machine.execValidate s
  | .format => Sys2Proof.Machine.execFormat s
  | .timestamp ts => Sys2Proof.Machine.execTimestamp ts s
  | .emit => Sys2Proof.Machine.execEmit s
  | .clear => Sys2Proof.Machine.execClear s
  | .retain => Sys2Proof.Machine.execRetain s

end Sys2Proof.Machine
end

