-- ==== Sys2Proof/Machine/Step.lean ====
section
/-! DEFINITION. One step of the machine: one rising edge of `clk` (spec/70_reset_and_hazards.md R168). -/

namespace Sys2Proof.Machine

/-- One edge: the command word at the pins is sampled, decoded and performed (R61, R168). -/
def step (s : State) : Host.Outcome State Fault Refusal := exec (decode s.fetch) s.afterSample

/-- `s` with a word numbered as spec/opcode_table.json numbers it put where the next step fetches.  A command word
is put on the pins of the next edge, with `bit_ts` 0.  A frame word (80 bits) is put in the window the next edge
completes: its bits 78 to 0 stand one place up in `W`, 79 samples are counted, and the next edge submits its bit 79
(R82, R85).  The samples after the next edge stay.  Log entry 3. -/
def State.withFetchWord (s : State) (nbits w : Nat) : State :=
  if nbits = 80 then
    let f := BitVec.ofNat 80 w
    { s with w := f <<< 1, cnt := 79, inputs := Pins.submit (f.getLsbD 79) 0 :: s.inputs.tail }
  else
    { s with inputs := Pins.ofCommand (BitVec.ofNat 3 w) 0 :: s.inputs.tail }

end Sys2Proof.Machine
end

