-- ==== Sys2Proof/Machine/EventStream.lean ====
section
/-! DEFINITION. What the host sees over several clock edges: the ordered stream of events (spec/20_memory.md R50,
43_format_event.md R122), and stimulus in the notation of 30_encoding.md R69. -/

namespace Sys2Proof.Machine

/-- The state after `k` edges; a step that stopped would leave the state where it was. -/
def State.after : Nat → State → State
  | 0, s => s
  | k + 1, s =>
    match step s with
    | .next t => State.after k t
    | .fault _ => s
    | .refused _ => s

/-- The events on the pins during the clocks that follow the next `k` edges, in order. -/
def State.events : Nat → State → List Payload
  | 0, _ => []
  | k + 1, s =>
    match step s with
    | .next t => t.event.toList ++ State.events k t
    | .fault _ => []
    | .refused _ => []

/-- Samples presented at successive edges, none of them a reset: `BIT b @t` for each (R69). -/
def sampleStream (l : List (Bit × Nat)) : List Pins := l.map fun x => Pins.submit x.1 x.2

/-- The samples among what is presented at successive edges, none of them a reset: an edge with `bit_valid = 0` is an
IDLE and presents none (R60, R61). -/
def samplesOf (l : List Pins) : List (Bit × Nat) := (l.filter (·.bitValid)).map fun p => (p.bitValue, p.bitTs)

/-- The bits of a frame word in arrival order, frame bit 0 first (R40), as `WORD 80` of R69 sends them. -/
def arrivalBits (f : FrameWord) : List Bit := (List.range 80).map fun i => f.getLsbD i

/-- `BITS s @t0 +dt`: bit `k` with timestamp `t0 + k*dt` (R69). -/
def bitsAt (l : List Bit) (t0 dt : Nat) : List (Bit × Nat) :=
  l.mapIdx fun k b => (b, t0 + k * dt)

end Sys2Proof.Machine
end

