-- ==== Sys2Proof/Safety.lean ====
section
/-! DEFINITION. The terms the statements use: the invariant of the block, the caller's contract, and the rules of
a decode written a second time in plain number arithmetic, as the spec's prose has them. -/

namespace Sys2Proof.Machine

/-- Positions of `W` that hold no sample are zero (R31 (c)). -/
def StaleZero (s : State) : Prop := ∀ i, i < 80 - s.cnt.val → s.w.getLsbD i = false

/-- A character code that is a decimal digit (R115). -/
def isDigitChar (c : Char8) : Bool := decide (0x30 ≤ c.toNat) && decide (c.toNat ≤ 0x39)

/-- Eleven characters of the form `^\d\d:\d\d:\d\d[:;]\d\d$` (R68). -/
def isTimecodeString (v : BitVec 88) : Bool :=
  isDigitChar (charAt v 0) && isDigitChar (charAt v 1) && charAt v 2 == colonChar &&
  isDigitChar (charAt v 3) && isDigitChar (charAt v 4) && charAt v 5 == colonChar &&
  isDigitChar (charAt v 6) && isDigitChar (charAt v 7) &&
  (charAt v 8 == colonChar || charAt v 8 == semicolonChar) &&
  isDigitChar (charAt v 9) && isDigitChar (charAt v 10)

/-- What every presented event is: field values in the ranges their sub-fields allow (R65), the string of those
values (R117), an end that fits its register and the start the fixed span before it (R118, R119), and validator
flags that agree with the values (R130; `val[0]` reads the digits, which the payload does not hold). -/
structure EventShape (c : Config) (p : Payload) : Prop where
  hours_le : p.hh.toNat ≤ 45
  minutes_le : p.mm.toNat ≤ 85
  seconds_le : p.ss.toNat ≤ 85
  frames_le : p.ff.toNat ≤ 45
  string : p.str = timecodeString p.hh p.mm p.ss p.ff p.df
  end_lt : p.endTs < 2 ^ c.tsW
  start : p.startTs = startTimestamp c p.endTs
  ff_ok : p.val.getLsbD 1 = framesOk c.fps p.ff
  ss_ok : p.val.getLsbD 2 = sixtyOk p.ss
  mm_ok : p.val.getLsbD 3 = sixtyOk p.mm
  hh_ok : p.val.getLsbD 4 = hoursOk p.hh
  df_ok : p.val.getLsbD 5 = dropFrameOk c.fps p.df

/-- The invariant of the block between operations. -/
structure Inv (s : State) : Prop where
  /-- R31 (c). -/
  stale : StaleZero s
  /-- While an event is presented the window is empty and clear (R93, R121). -/
  pulse : s.evValid = true → s.cnt = 0 ∧ s.w = 0#80 ∧ EventShape s.cfg s.payload
  /-- The payload is that of reset or of some event (R25, U10). -/
  held : s.payload = Payload.zero ∨ EventShape s.cfg s.payload
  /-- Nothing combinational is kept (R28). -/
  quiet : s.wires = Wires.quiet

/-- **PRE_TS** (R120): the timestamp is at least one span above the origin. -/
def PreTs (c : Config) (ts : Nat) : Prop := c.spanTicks ≤ ts

/-- The caller's contract on a stream of samples (R55, R164): timestamps fit their pins and do not decrease. -/
def CallerContract (c : Config) (l : List (Bit × Nat)) : Prop :=
  (∀ x ∈ l, x.2 < 2 ^ c.tsW) ∧ List.Pairwise (fun x y => x.2 ≤ y.2) l

/-- The sync word in arrival order, frame bit 64 first: `0 0`, twelve `1`, `0 1` (R42). -/
def arrivalSync : List Bit :=
  [false, false, true, true, true, true, true, true, true, true, true, true, true, true, false, true]

/-- E2 (R142): a units digit above 9, or a value outside the ranges of the Timecode record (R106). -/
def malformedTimecode (x : FrameFields) : Bool :=
  decide (9 < x.framesUnits.toNat) || decide (9 < x.secondsUnits.toNat) || decide (9 < x.minutesUnits.toNat) ||
  decide (9 < x.hoursUnits.toNat) || decide (29 < x.framesUnits.toNat + 10 * x.framesTens.toNat) ||
  decide (59 < x.secondsUnits.toNat + 10 * x.secondsTens.toNat) ||
  decide (59 < x.minutesUnits.toNat + 10 * x.minutesTens.toNat) ||
  decide (23 < x.hoursUnits.toNat + 10 * x.hoursTens.toNat)

/-- `v[off+w-1 : off] = floor(v / 2^off) mod 2^w` (R9). -/
def slice (v off w : Nat) : Nat := v / 2 ^ off % 2 ^ w

/-- The decimal code of two digits as a number: the tens digit's byte first (R115). -/
def twoDigitCode (v : Nat) : Nat := (0x30 + v / 10) * 256 + (0x30 + v % 10)

/-- The 88-bit string as a number (R43, R116, R117). -/
def stringCode (hh mm ss ff : Nat) (df : Bit) : Nat :=
  let sep := if df then 0x3B else 0x3A
  ((((((twoDigitCode hh * 256 + 0x3A) * 65536 + twoDigitCode mm) * 256 + 0x3A) * 65536 + twoDigitCode ss) * 256
    + sep) * 65536 + twoDigitCode ff)

/-- The six flags of R130 as a number. -/
def flagsCode (fps : Nat) (hu mu su fu hh mm ss ff : Nat) (df : Bit) : Nat :=
  (if fu ≤ 9 ∧ su ≤ 9 ∧ mu ≤ 9 ∧ hu ≤ 9 then 1 else 0) + (if ff < fps then 2 else 0) +
  (if ss ≤ 59 then 4 else 0) + (if mm ≤ 59 then 8 else 0) + (if hh ≤ 23 then 16 else 0) +
  (if df = false ∨ fps = 30 then 32 else 0)

/-- The event of R121 from the numbers in the sub-fields of a frame word and the triggering bit's timestamp.
The start is R119's, with R120's reading of the wrap. -/
def eventOfNumbers (c : Config) (hu ht mu mt su st fu ft : Nat) (df cf : Bit) (ts : Nat) : Payload :=
  let hh := hu + 10 * ht
  let mm := mu + 10 * mt
  let ss := su + 10 * st
  let ff := fu + 10 * ft
  { startTs := if c.spanTicks ≤ ts then ts - c.spanTicks else ts + 2 ^ c.tsW - c.spanTicks
    endTs := ts
    str := BitVec.ofNat 88 (stringCode hh mm ss ff df)
    hh := BitVec.ofNat 7 hh
    mm := BitVec.ofNat 7 mm
    ss := BitVec.ofNat 7 ss
    ff := BitVec.ofNat 7 ff
    df := df
    cf := cf
    val := BitVec.ofNat 6 (flagsCode (fpsValue c.fps) hu mu su fu hh mm ss ff df) }

/-- `DecodeEvent(F, ts)` (R85): the event of a frame word read as a number at the offsets of R47. -/
def eventOfFrame (c : Config) (f : FrameWord) (ts : Nat) : Payload :=
  eventOfNumbers c (slice f.toNat 48 4) (slice f.toNat 56 2) (slice f.toNat 32 4) (slice f.toNat 40 3)
    (slice f.toNat 16 4) (slice f.toNat 24 3) (slice f.toNat 0 4) (slice f.toNat 8 2)
    (slice f.toNat 10 1 == 1) (slice f.toNat 11 1 == 1) ts

/-- The event of the fields of a frame word. -/
def eventOfFields (c : Config) (x : FrameFields) (ts : Nat) : Payload :=
  eventOfNumbers c x.hoursUnits.toNat x.hoursTens.toNat x.minutesUnits.toNat x.minutesTens.toNat
    x.secondsUnits.toNat x.secondsTens.toNat x.framesUnits.toNat x.framesTens.toNat x.dropFrame x.colorFrame ts

/-- The window after the shift-in, as a number: every bit one place toward 0, `b` at bit 79 (R82). -/
def windowAfter (w : FrameWord) (b : Bit) : FrameWord := BitVec.ofNat 80 (w.toNat / 2 + b.toNat * 2 ^ 79)

/-- The complete next-state function of SUBMIT (R85). -/
def submitRule (b : Bit) (ts : Nat) (s : State) : State :=
  let w1 := windowAfter s.w b
  if 79 ≤ s.cnt.val ∧ slice w1.toNat 64 16 = 0xBFFC then
    { s with w := 0#80, cnt := 0, evValid := true, payload := eventOfFrame s.cfg w1 ts, wires := .quiet }
  else
    { s with w := w1, cnt := countedUp s.cnt, evValid := false, wires := .quiet }

/-- The value of bits in arrival order, the first least significant (R9, R40, R90). -/
def bitsValue : List Bit → Nat
  | [] => 0
  | b :: l => b.toNat + 2 * bitsValue l

/-- The last `n` elements of a list, all of it when it is shorter. -/
def newest {α : Type} (n : Nat) (l : List α) : List α := l.drop (l.length - n)

/-- The same block built for another rate (R8, R132). -/
def State.builtFor (s : State) (r : FrameRate) : State := { s with cfg := { s.cfg with fps := r } }

/-- The mask of the frame bits some rule reads: 16 sync bits, 26 BCD bits, 2 flags (R47). -/
def readMask : FrameWord := 0xFFFF030F070F070F0F0F#80

/-- Instructions performed one after another, stopping where one stops. -/
def execAll : List Instr → State → Host.Outcome State Fault Refusal
  | [], s => .next s
  | i :: l, s =>
    match exec i s with
    | .next t => execAll l t
    | .fault r => .fault r
    | .refused r => .refused r

/-- Sub-operations 1 to 7 of R62. -/
def partsBeforeValidate (b : Bit) : List Instr :=
  [.shiftIn b, .count, .fullTest, .pack, .syncCheck, .extractFrames, .extractSeconds, .extractMinutes,
    .extractHours, .flagDrop, .flagColor]

/-- Sub-operations 9 to 12 of R62. -/
def partsAfterValidate (ts : Nat) : List Instr := [.format, .timestamp ts, .emit, .clear, .retain]

/-- The sub-operations of SUBMIT in the order of R62. -/
def subOperations (b : Bit) (ts : Nat) : List Instr :=
  partsBeforeValidate b ++ .validate :: partsAfterValidate ts

end Sys2Proof.Machine
end

