-- ==== Sys2Proof/Certificates/Slice0/Obligations.lean ====
section
/-! DEFINITION. The statements about this model, each one a Prop for the provers.  Where a statement names the
whole next state `{ s with ... }`, what it does not list is unchanged; `wires := x` under `∃ x` says nothing of the
combinational values, which are no register of the block (R28; log entry 4).  The terms used are in
Sys2Proof/Safety.lean. -/

open Sys2Proof Sys2Proof.Machine

/-! ### Reset and the three operations -/

/-- R162: the reset state, at any parameters and whatever the caller has ready. -/
def Obligations.ResetStateHoldsTheStatedValues : Prop :=
  ∀ s : State, (s = State.reset ∨ ∃ (c : Config) (l : List Pins), s = State.resetWith c l) →
    s.cnt = 0 ∧ s.w = 0#80 ∧ s.evValid = false ∧ s.payload.startTs = 0 ∧ s.payload.endTs = 0 ∧
      s.payload.str = 0#88 ∧ s.payload.hh = 0#7 ∧ s.payload.mm = 0#7 ∧ s.payload.ss = 0#7 ∧ s.payload.ff = 0#7 ∧
      s.payload.df = false ∧ s.payload.cf = false ∧ s.payload.val = 0#6 ∧
      s.win = [] ∧ s.event = none ∧ s.phase = Phase.accumulating

/-- R80: RESET in any state gives the same register contents; parameters and the caller's samples stay. -/
def Obligations.ResetClearsEveryRegister : Prop :=
  ∀ s : State, ∃ x : Wires, exec .reset s = .next
    { cfg := s.cfg, w := 0#80, cnt := 0, evValid := false,
      payload := { startTs := 0, endTs := 0, str := 0#88, hh := 0#7, mm := 0#7, ss := 0#7, ff := 0#7,
                   df := false, cf := false, val := 0#6 },
      wires := x, inputs := s.inputs }

/-- R81: IDLE writes `EV_VALID <- 0` and keeps `W`, `CNT` and every payload register. -/
def Obligations.IdleEndsThePulseAndKeepsTheRest : Prop :=
  ∀ s : State, ∃ x : Wires, exec .idle s = .next { s with evValid := false, wires := x }

/-- R85: SUBMIT, the chain of seventeen sub-operations, computes the complete next-state function of the rule,
written here in plain number arithmetic.  The parameters meet R8 and the timestamp fits its pins. -/
def Obligations.SubmitComputesTheStatedNextState : Prop :=
  ∀ (s : State) (b : Bit) (ts : Nat), s.cfg.wf = true → ts < 2 ^ s.cfg.tsW →
    ∃ x : Wires, exec (.submit b ts) s = .next { submitRule b ts s with wires := x }

/-- The model's own choice, log entry 4: every whole operation, and every step, ends with the combinational values
quiet, since nothing of them is kept (R28). -/
def Obligations.CombinationalValuesAreNotKept : Prop :=
  (∀ (s t : State) (b : Bit) (ts : Nat) (x : FrameFields) (f : FrameWord),
    ∀ i ∈ [Instr.reset, .idle, .submit b ts, .ltcFrame x ts, .noSync f], exec i s = .next t → t.wires = Wires.quiet) ∧
  ∀ s t : State, step s = .next t → t.wires = Wires.quiet

/-! ### Frame words -/

/-- R100 to R105, R115 to R119, R130: every LTC_FRAME word, in range or not, emits the event of its fields and
clears the window; said of the fields, and of the word read as a number at the offsets of R47. -/
def Obligations.LtcFrameWordEmitsItsEventAndClears : Prop :=
  ∀ (s : State) (ts : Nat), s.cfg.wf = true → ts < 2 ^ s.cfg.tsW →
    (∀ y : FrameFields, ∃ x : Wires, exec (.ltcFrame y ts) s = .next
      { s with w := 0#80, cnt := 0, evValid := true, payload := eventOfFields s.cfg y ts, wires := x }) ∧
    (∀ f : FrameWord, f.toNat / 2 ^ 64 = 0xBFFC → ∃ x : Wires, exec (decode (.frame f ts)) s = .next
      { s with w := 0#80, cnt := 0, evValid := true, payload := eventOfFrame s.cfg f ts, wires := x })

/-- R94, R141: a NO_SYNC word gives no event; the window is that word, full; the payload is unchanged. -/
def Obligations.NoSyncWordIsRetainedWithoutEvent : Prop :=
  ∀ (s : State) (f : FrameWord), f.toNat / 2 ^ 64 ≠ 0xBFFC →
    ∃ x : Wires, exec (.noSync f) s = .next { s with w := f, cnt := 80, evValid := false, wires := x }

/-- R142: every LTC_FRAME word, malformed or out of range or not, is emitted with the values computed from its fields
and clears the window, alike at every rate; at the assumed rate of 30 the six flags are all 1 exactly when the timecode
is not malformed. -/
def Obligations.MalformedTimecodeIsEmittedAsComputed : Prop :=
  ∀ (s : State) (y : FrameFields) (ts : Nat), s.cfg.wf = true → ts < 2 ^ s.cfg.tsW →
    ∃ t : State, exec (.ltcFrame y ts) s = .next t ∧ t.evValid = true ∧ t.cnt = 0 ∧ t.w = 0#80 ∧
      t.payload = eventOfFields s.cfg y ts ∧
      (s.cfg.fps = .fps30 → (malformedTimecode y = true ↔ t.payload.val ≠ 0b111111#6))

/-! ### Sub-operations of SUBMIT

That a sub-operation is an instruction of its own, which takes a state to a state and leaves what it computes in the
combinational values `wires`, is the model's choice (log entries 4 and 7); the values are the rules'. -/

/-- R82: `W1[79] = b`, `W1[i] = W[i+1]`; nothing but `W1` changes. -/
def Obligations.ShiftInMovesEveryBitOnePlaceDown : Prop :=
  ∀ (s : State) (b : Bit), ∃ w1 : FrameWord,
    exec (.shiftIn b) s = .next { s with wires := { s.wires with w1 := w1 } } ∧
    w1.getLsbD 79 = b ∧ ∀ i, i ≤ 78 → w1.getLsbD i = s.w.getLsbD (i + 1)

/-- R83: `C1 = min(CNT + 1, 80)`; nothing but `C1` changes. -/
def Obligations.CountSaturatesAtEighty : Prop :=
  ∀ s : State, ∃ c1 : Fin 81,
    exec .count s = .next { s with wires := { s.wires with c1 := c1 } } ∧ c1.val = min (s.cnt.val + 1) 80

/-- R84: `full = (C1 == 80)`; when it is 0 the SUBMIT ends with `W <- W1 ; CNT <- C1 ; EV_VALID <- 0`. -/
def Obligations.FullTestContinuesOrEndsTheSubmit : Prop :=
  ∀ s : State,
    (s.wires.c1.val = 80 → exec .fullTest s = .next { s with wires := { s.wires with full := true } }) ∧
    (s.wires.c1.val ≠ 80 → exec .fullTest s = .next
      { s with w := s.wires.w1, cnt := s.wires.c1, evValid := false, wires := { s.wires with full := false } })

/-- R90: on a full window `F[i] = W1[i]`; nothing but `F` changes. -/
def Obligations.PackCopiesTheShiftedWindow : Prop :=
  ∀ s : State, s.wires.full = true → ∃ f : FrameWord,
    exec .pack s = .next { s with wires := { s.wires with f := f } } ∧
    ∀ i, i ≤ 79 → f.getLsbD i = s.wires.w1.getLsbD i

/-- R91: on a full window `sync_match` is 1 exactly when `F[79:64]` is `0xBFFC`; the SyncMismatch of the other case
has no effect of its own. -/
def Obligations.SyncCheckComparesSixteenBits : Prop :=
  ∀ s : State, s.wires.full = true → ∃ m : Bool,
    exec .syncCheck s = .next { s with wires := { s.wires with syncMatch := m } } ∧
    (m = true ↔ slice s.wires.f.toNat 64 16 = 0xBFFC)

/-- R100 to R103: each field is `units + 10 * tens` of its sub-fields; nothing but its own wires change. -/
def Obligations.ExtractedFieldsAreUnitsPlusTenTens : Prop :=
  ∀ s : State, s.wires.full = true → s.wires.syncMatch = true →
    let f := s.wires.f.toNat
    (∃ (u : BitVec 4) (v : FieldValue),
      exec .extractFrames s = .next { s with wires := { s.wires with ffUnits := u, frames := v } } ∧
      u.toNat = slice f 0 4 ∧ v.toNat = slice f 0 4 + 10 * slice f 8 2) ∧
    (∃ (u : BitVec 4) (v : FieldValue),
      exec .extractSeconds s = .next { s with wires := { s.wires with ssUnits := u, seconds := v } } ∧
      u.toNat = slice f 16 4 ∧ v.toNat = slice f 16 4 + 10 * slice f 24 3) ∧
    (∃ (u : BitVec 4) (v : FieldValue),
      exec .extractMinutes s = .next { s with wires := { s.wires with mmUnits := u, minutes := v } } ∧
      u.toNat = slice f 32 4 ∧ v.toNat = slice f 32 4 + 10 * slice f 40 3) ∧
    (∃ (u : BitVec 4) (v : FieldValue),
      exec .extractHours s = .next { s with wires := { s.wires with hhUnits := u, hours := v } } ∧
      u.toNat = slice f 48 4 ∧ v.toNat = slice f 48 4 + 10 * slice f 56 2)

/-- R104, R105: `drop_frame = F[10]`, `color_frame = F[11]`; nothing else changes. -/
def Obligations.FlagsAreFrameBitsTenAndEleven : Prop :=
  ∀ s : State, s.wires.full = true → s.wires.syncMatch = true →
    exec .flagDrop s = .next { s with wires := { s.wires with dropFrame := s.wires.f.getLsbD 10 } } ∧
    exec .flagColor s = .next { s with wires := { s.wires with colorFrame := s.wires.f.getLsbD 11 } }

/-- R130: the six flags of the decoded values; nothing but `val` changes. -/
def Obligations.ValidateComputesTheSixFlags : Prop :=
  ∀ s : State, s.wires.full = true → s.wires.syncMatch = true → ∃ v : BitVec 6,
    exec .validate s = .next { s with wires := { s.wires with val := v } } ∧
    (v.getLsbD 0 = true ↔ s.wires.ffUnits.toNat ≤ 9 ∧ s.wires.ssUnits.toNat ≤ 9 ∧ s.wires.mmUnits.toNat ≤ 9 ∧
      s.wires.hhUnits.toNat ≤ 9) ∧
    (v.getLsbD 1 = true ↔ s.wires.frames.toNat < fpsValue s.cfg.fps) ∧
    (v.getLsbD 2 = true ↔ s.wires.seconds.toNat ≤ 59) ∧
    (v.getLsbD 3 = true ↔ s.wires.minutes.toNat ≤ 59) ∧
    (v.getLsbD 4 = true ↔ s.wires.hours.toNat ≤ 23) ∧
    (v.getLsbD 5 = true ↔ s.wires.dropFrame = false ∨ fpsValue s.cfg.fps = 30)

/-- R115 to R117: the eleven characters at the places of R43, as one number; nothing but `str` changes. -/
def Obligations.FormatWritesTheTimecodeString : Prop :=
  ∀ s : State, s.wires.full = true → s.wires.syncMatch = true →
    exec .format s = .next { s with wires := { s.wires with
      str := BitVec.ofNat 88 (stringCode s.wires.hours.toNat s.wires.minutes.toNat s.wires.seconds.toNat
        s.wires.frames.toNat s.wires.dropFrame) } }

/-- R118 to R120: the end is the operand; the start is the operand less the span, wrapping once below the origin;
nothing else changes. -/
def Obligations.TimestampGivesTheEndAndTheStart : Prop :=
  ∀ (s : State) (ts : Nat), s.wires.full = true → s.wires.syncMatch = true → s.cfg.wf = true →
    ts < 2 ^ s.cfg.tsW →
    exec (.timestamp ts) s = .next { s with wires := { s.wires with
      endTs := ts
      startTs := if s.cfg.spanTicks ≤ ts then ts - s.cfg.spanTicks else ts + 2 ^ s.cfg.tsW - s.cfg.spanTicks } }

/-- R121: `EV_VALID <- 1` and every payload register from the decoded values; nothing else changes. -/
def Obligations.EmitPresentsEveryDecodedValue : Prop :=
  ∀ s : State, s.wires.full = true → s.wires.syncMatch = true →
    exec .emit s = .next { s with
      evValid := true
      payload := { startTs := s.wires.startTs, endTs := s.wires.endTs, str := s.wires.str, hh := s.wires.hours,
                   mm := s.wires.minutes, ss := s.wires.seconds, ff := s.wires.frames, df := s.wires.dropFrame,
                   cf := s.wires.colorFrame, val := s.wires.val } }

/-- R93, R94: CLEAR empties the window after a match; RETAIN keeps it, shifted, after a mismatch and ends the pulse. -/
def Obligations.ClearAndRetainEndTheAttempt : Prop :=
  ∀ s : State, s.wires.full = true →
    (s.wires.syncMatch = true → exec .clear s = .next { s with w := 0#80, cnt := 0 }) ∧
    (s.wires.syncMatch = false → exec .retain s = .next { s with w := s.wires.w1, cnt := 80, evValid := false })

/-- R62, column "performed when": where its condition does not hold, a sub-operation changes nothing. -/
def Obligations.UnperformedSubOperationsChangeNothing : Prop :=
  ∀ (s : State) (ts : Nat),
    (s.wires.full = false → ∀ i ∈ [Instr.pack, .syncCheck, .retain], exec i s = .next s) ∧
    (s.wires.syncMatch = true → exec .retain s = .next s) ∧
    ((s.wires.full && s.wires.syncMatch) = false →
      ∀ i ∈ [Instr.extractFrames, .extractSeconds, .extractMinutes, .extractHours, .flagDrop, .flagColor, .validate,
        .format, .timestamp ts, .emit, .clear], exec i s = .next s)

/-- R62: SUBMIT is its sub-operations one after another, begun and ended with nothing combinational kept (R28; that
it is so kept between them is log entry 4). -/
def Obligations.SubmitIsItsSubOperationsInOrder : Prop :=
  ∀ (s : State) (b : Bit) (ts : Nat), ∃ t : State,
    execAll (subOperations b ts) { s with wires := Wires.quiet } = .next t ∧
    exec (.submit b ts) s = .next { t with wires := Wires.quiet }

/-- R26, R28: the sub-operations that only compute write no register, and keep the parameters and the samples. -/
def Obligations.ComputingSubOperationsWriteNoRegister : Prop :=
  ∀ (s : State) (b : Bit) (ts : Nat),
    ∀ i ∈ [Instr.shiftIn b, .count, .pack, .syncCheck, .extractFrames, .extractSeconds, .extractMinutes,
        .extractHours, .flagDrop, .flagColor, .validate, .format, .timestamp ts],
      ∃ x : Wires, exec i s = .next { s with wires := x }

/-! ### Encodings -/

/-- R61: each of the eight command words selects the operation its row says, with the operands its row says. -/
def Obligations.CommandWordsDecodeAsTabled : Prop :=
  ∀ (cmd : CommandWord) (ts : Nat),
    (cmd &&& 0b100#3 = 0b100#3 → decode (.command cmd ts) = .reset) ∧
    (cmd &&& 0b110#3 = 0b000#3 → decode (.command cmd ts) = .idle) ∧
    (cmd &&& 0b110#3 = 0b010#3 → decode (.command cmd ts) = .submit (cmd.getLsbD 0) ts) ∧
    (cmd &&& 0b100#3 = 0b100#3 ∨ cmd &&& 0b110#3 = 0b000#3 ∨ cmd &&& 0b110#3 = 0b010#3)

/-- R64: a frame word is LTC_FRAME exactly when its top sixteen bits are `0xBFFC`, NO_SYNC otherwise; its fields are
the slices of R47. -/
def Obligations.FrameWordsDecodeByTheSyncFieldAlone : Prop :=
  ∀ (f : FrameWord) (ts : Nat),
    (f.toNat / 2 ^ 64 = 0xBFFC → ∃ x : FrameFields, decode (.frame f ts) = .ltcFrame x ts ∧
      x.framesUnits.toNat = slice f.toNat 0 4 ∧ x.framesTens.toNat = slice f.toNat 8 2 ∧
      x.secondsUnits.toNat = slice f.toNat 16 4 ∧ x.secondsTens.toNat = slice f.toNat 24 3 ∧
      x.minutesUnits.toNat = slice f.toNat 32 4 ∧ x.minutesTens.toNat = slice f.toNat 40 3 ∧
      x.hoursUnits.toNat = slice f.toNat 48 4 ∧ x.hoursTens.toNat = slice f.toNat 56 2 ∧
      x.dropFrame.toNat = slice f.toNat 10 1 ∧ x.colorFrame.toNat = slice f.toNat 11 1) ∧
    (f.toNat / 2 ^ 64 ≠ 0xBFFC → decode (.frame f ts) = .noSync f)

/-- Words written out from R61 and R63, one or more for each format. -/
def Obligations.SpelledOutWordsDecode : Prop :=
  decodeTableWord 8 0b100 = some .reset ∧ decodeTableWord 8 0b111 = some .reset ∧
  decodeTableWord 8 0b000 = some .idle ∧ decodeTableWord 8 0b001 = some .idle ∧
  decodeTableWord 8 0b010 = some (.submit false 0) ∧ decodeTableWord 8 0b011 = some (.submit true 0) ∧
  decodeTableWord 80 0b10111111111111000000000000000001000000100000001100000100000001010000000100000010 =
    some (.ltcFrame { framesUnits := 2, framesTens := 1, dropFrame := false, colorFrame := false, secondsUnits := 5,
                      secondsTens := 4, minutesUnits := 3, minutesTens := 2, hoursUnits := 1, hoursTens := 0 } 0) ∧
  decodeTableWord 80 0x3FFD0000000000000000 = some (.noSync 0x3FFD0000000000000000#80)

/-- Decode after encode: no bit of an operand is dropped.  RESET, IDLE, SUBMIT and the two frame words give themselves
back.  A sub-operation has no word of its own: that its word is the one of the SUBMIT it is part of, with what it lacks
shown as 0, and decodes to that SUBMIT, is the model's reading, log entry 8. -/
def Obligations.DecodingAnEncodingGivesWhatItsWordSpells : Prop :=
  ∀ (c : Config) (i : Instr), wellFormed c i = true →
    ((∀ b ts, i ∉ subOperations b ts) → decode (encode i) = i) ∧ decode (encode i) = spelledBy i

/-- Encode after decode: of an LTC_FRAME word the 44 bits some rule reads come back (R47), the others as 0 (log entry
10); a NO_SYNC word comes back whole. -/
def Obligations.EncodingADecodedFrameKeepsItsReadBits : Prop :=
  ∀ (f : FrameWord) (ts : Nat),
    (isLtcFrame f = true → encode (decode (.frame f ts)) = .frame (f &&& readMask) ts) ∧
    (isLtcFrame f = false → encode (decode (.frame f ts)) = .frame f 0)

/-- R48, R108: two LTC_FRAME words that agree on the 44 bits some rule reads have the same effect. -/
def Obligations.UnreadBitsNeverMatter : Prop :=
  ∀ (f g : FrameWord) (ts : Nat) (s : State), isLtcFrame f = true → f &&& readMask = g &&& readMask →
    exec (decode (.frame g ts)) s = exec (decode (.frame f ts)) s

/-- R70, R109: decoding `enc(hh,mm,ss,ff,df,cf)` returns the six values encoded. -/
def Obligations.TestEncoderReturnsItsValues : Prop :=
  ∀ (hh mm ss ff ts : Nat) (df cf : Bit), hh / 10 ≤ 3 → mm / 10 ≤ 7 → ss / 10 ≤ 7 → ff / 10 ≤ 3 →
    ∃ x : FrameFields, decode (.frame (enc hh mm ss ff df cf) ts) = .ltcFrame x ts ∧
      x.hoursUnits.toNat + 10 * x.hoursTens.toNat = hh ∧ x.minutesUnits.toNat + 10 * x.minutesTens.toNat = mm ∧
      x.secondsUnits.toNat + 10 * x.secondsTens.toNat = ss ∧ x.framesUnits.toNat + 10 * x.framesTens.toNat = ff ∧
      x.dropFrame = df ∧ x.colorFrame = cf

/-! ### The step -/

/-- R60, R61, R168: one step samples the pins of the next edge and performs the operation their command word selects,
its timestamp operand as the `TS_W` pins carry it; with nothing more from the caller it is an IDLE (log entry 3). -/
def Obligations.StepRunsTheDecodedCommand : Prop :=
  ∀ s : State,
    (∀ (p : Pins) (rest : List Pins), s.inputs = p :: rest →
      step s = exec (decode (.command p.cmd (p.bitTs % 2 ^ s.cfg.tsW))) { s with inputs := rest }) ∧
    (s.inputs = [] → step s = exec .idle s)

/-- What a step fetches is always a well-formed instruction (R61, R66: every command word is defined). -/
def Obligations.FetchedInstructionIsWellFormed : Prop :=
  ∀ s : State, wellFormed s.cfg (decode s.fetch) = true

/-- R62, R64: a SUBMIT that fills the window performs the frame word the window then holds. -/
def Obligations.FullWindowSubmitRunsTheFrameWord : Prop :=
  ∀ (s : State) (b : Bit) (ts : Nat), 79 ≤ s.cnt.val →
    exec (.submit b ts) s = exec (decode (.frame (windowAfter s.w b) ts)) s

/-- The model's own way to place a word (log entry 3): the next step performs exactly the word placed. -/
def Obligations.PlacedWordIsRunByTheNextStep : Prop :=
  ∀ (s : State) (w : Nat),
    step (s.withFetchWord 80 w) = exec (decode (.frame (BitVec.ofNat 80 w) 0)) { s with inputs := s.inputs.tail } ∧
    step (s.withFetchWord 8 w) = exec (decode (.command (BitVec.ofNat 3 w) 0)) { s with inputs := s.inputs.tail }

/-- R66, R140: no encoding traps and nothing is fatal: every instruction and every step goes on. -/
def Obligations.NothingEverStops : Prop :=
  (∀ (i : Instr) (s : State), ∃ t, exec i s = .next t) ∧ ∀ s : State, ∃ t, step s = .next t

/-- R27, R32: no step changes the parameters, and a step takes exactly the sample of its own edge. -/
def Obligations.StepKeepsParametersAndTakesOneSample : Prop :=
  ∀ s t : State, step s = .next t → t.cfg = s.cfg ∧ t.inputs = s.inputs.tail

/-! ### Invariants -/

/-- Every step keeps the invariant: stale positions zero (R31), an empty window while an event shows (R93, R121), a
payload that is reset's or an event of the stated shape (R25, R65, R117 to R119, R130), nothing combinational (R28). -/
def Obligations.StepKeepsTheInvariant : Prop :=
  ∀ s t : State, Inv s → step s = .next t → Inv t

/-- The reset state meets it, at any parameters. -/
def Obligations.ResetMeetsTheInvariant : Prop :=
  Inv State.reset ∧ ∀ (c : Config) (l : List Pins), Inv (State.resetWith c l)

/-! ### Window, count and synchronization -/

/-- R86, R22: the table of `CNT` before and after each operation, with the phases. -/
def Obligations.CountFollowsThePhaseTable : Prop :=
  ∀ (s : State) (b : Bit) (ts : Nat),
    (∃ t, exec .reset s = .next t ∧ t.cnt.val = 0 ∧ t.phase = Phase.accumulating) ∧
    (∃ t, exec .idle s = .next t ∧ t.cnt = s.cnt ∧ t.phase = s.phase) ∧
    (s.cnt.val ≤ 78 → ∃ t, exec (.submit b ts) s = .next t ∧ t.cnt.val = s.cnt.val + 1 ∧
      t.phase = Phase.accumulating) ∧
    (79 ≤ s.cnt.val → slice (windowAfter s.w b).toNat 64 16 ≠ 0xBFFC →
      ∃ t, exec (.submit b ts) s = .next t ∧ t.cnt.val = 80 ∧ t.phase = Phase.search) ∧
    (79 ≤ s.cnt.val → slice (windowAfter s.w b).toNat 64 16 = 0xBFFC →
      ∃ t, exec (.submit b ts) s = .next t ∧ t.cnt.val = 0 ∧ t.phase = Phase.accumulating)

/-- R23: one operation on the abstract window: a SUBMIT without event appends and keeps the last 80, an event and RESET
empty it, IDLE keeps it. -/
def Obligations.WindowHoldsTheMostRecentBits : Prop :=
  ∀ (s : State) (b : Bit) (ts : Nat),
    (∃ t, exec (.submit b ts) s = .next t ∧
      t.win = if t.evValid then [] else newest 80 (s.win ++ [b])) ∧
    (∃ t, exec .idle s = .next t ∧ t.win = s.win) ∧ (∃ t, exec .reset s = .next t ∧ t.win = [])

/-- R88: after SUBMITs and IDLEs that follow a clearing event and emit nothing, the abstract window is the last
`min(n, 80)` values submitted, in order.  The last clause, that the run takes exactly its own samples of the list the
caller has ready, is about the model's list of samples, log entry 3. -/
def Obligations.FifoPropertyOverRuns : Prop :=
  ∀ (s : State) (l rest : List Pins), s.cnt = 0 → s.inputs = l ++ rest → (∀ p ∈ l, p.rst = false) →
    s.events l.length = [] →
    (s.after l.length).win = newest 80 ((samplesOf l).map Prod.fst) ∧
    (s.after l.length).inputs = rest

/-- R92: a SUBMIT emits exactly when it leaves the window full with the sync word in bits 64 to 79; the other 64 bits,
the timestamps and the earlier state have no say. -/
def Obligations.SubmitEmitsExactlyOnASyncMatch : Prop :=
  ∀ (s : State) (b : Bit) (ts : Nat), ∃ t, exec (.submit b ts) s = .next t ∧
    (t.evValid = true ↔ 79 ≤ s.cnt.val ∧ slice (windowAfter s.w b).toNat 64 16 = 0xBFFC)

/-- R95: with the SUBMITs since a clearing event numbered from 1, IDLEs among them or not, and none before `n` emitting,
SUBMIT `n` emits exactly when `n >= 80` and the last sixteen values are the sync word in arrival order; the frame is the
last eighty values, and the window is empty again afterwards. -/
def Obligations.EventPositionInTheStream : Prop :=
  ∀ (s : State) (l rest : List Pins) (p : Pins),
    s.cnt = 0 → s.inputs = l ++ p :: rest → (∀ q ∈ p :: l, q.rst = false) → p.bitValid = true →
    s.events l.length = [] → s.cfg.wf = true → p.bitTs < 2 ^ s.cfg.tsW →
    let values := (samplesOf l).map Prod.fst ++ [p.bitValue]
    let n := values.length
    (80 ≤ n ∧ newest 16 values = arrivalSync →
      s.events (l.length + 1) =
          [eventOfFrame s.cfg (BitVec.ofNat 80 (bitsValue (newest 80 values))) p.bitTs] ∧
        (s.after (l.length + 1)).cnt = 0) ∧
    (¬ (80 ≤ n ∧ newest 16 values = arrivalSync) → s.events (l.length + 1) = [])

/-- R96: a stream of SUBMITs, IDLEs among them or not, after a clearing event produces no event if and only if no SUBMIT
numbered 80 or more ends a run of sixteen values equal to the sync word in arrival order. -/
def Obligations.NoEventWithoutTheSyncPattern : Prop :=
  ∀ (s : State) (l rest : List Pins), s.cnt = 0 → s.inputs = l ++ rest → (∀ p ∈ l, p.rst = false) →
    (s.events l.length = [] ↔
      ∀ n, 80 ≤ n → n ≤ (samplesOf l).length → newest 16 (((samplesOf l).map Prod.fst).take n) ≠ arrivalSync)

/-- R165, R171: whatever happens at the pins, no event comes before the window has filled: not in the 79 edges after
RESET or after an event. -/
def Obligations.NoEventBeforeTheWindowFills : Prop :=
  ∀ (s : State) (k : Nat), s.cnt.val + k ≤ 79 → s.events k = []

/-- R172: back-to-back LTC_FRAME words from an empty window, IDLEs between their bits or not, give exactly one event each,
with the timestamp of their last bit. -/
def Obligations.BackToBackFramesEachGiveOneEvent : Prop :=
  ∀ (s : State) (fs : List FrameWord) (l rest : List Pins),
    s.cnt = 0 → s.cfg.wf = true → s.inputs = l ++ rest → (∀ p ∈ l, p.rst = false) →
    (∀ f ∈ fs, isLtcFrame f = true) → (samplesOf l).map Prod.fst = fs.flatMap arrivalBits →
    (∀ x ∈ samplesOf l, x.2 < 2 ^ s.cfg.tsW) →
    s.events l.length =
      fs.mapIdx (fun k f => eventOfFrame s.cfg f (((samplesOf l).map Prod.snd).getD (80 * k + 79) 0)) ∧
    (s.after l.length).cnt = 0

/-- R109: known timecode values, encoded and submitted bit by bit from an empty window, IDLEs between the bits or not,
yield one event with the string of those values. -/
def Obligations.EncodedTimecodeYieldsItsString : Prop :=
  ∀ (s : State) (hh mm ss ff : Nat) (df cf : Bit) (l rest : List Pins),
    hh / 10 ≤ 3 → mm / 10 ≤ 7 → ss / 10 ≤ 7 → ff / 10 ≤ 3 → s.cnt = 0 →
    s.inputs = l ++ rest → (∀ p ∈ l, p.rst = false) →
    (samplesOf l).map Prod.fst = arrivalBits (enc hh mm ss ff df cf) →
    ∃ p : Payload, s.events l.length = [p] ∧ p.str = BitVec.ofNat 88 (stringCode hh mm ss ff df) ∧
      p.hh.toNat = hh ∧ p.mm.toNat = mm ∧ p.ss.toNat = ss ∧ p.ff.toNat = ff ∧ p.df = df ∧ p.cf = cf

/-! ### Events -/

/-- R121: two SUBMITs one after the other never both emit. -/
def Obligations.NoTwoConsecutiveEvents : Prop :=
  ∀ (s : State) (b : Bit) (ts : Nat), Inv s → s.evValid = true →
    ∃ t, exec (.submit b ts) s = .next t ∧ t.evValid = false ∧ t.cnt.val = 1

/-- R68, R117: every string presented is `HH:MM:SS<sep>FF` of the values presented with it, each in two decimal digits,
its separator `;` exactly with the drop-frame flag, and it has the form of the pattern. -/
def Obligations.EventStringMatchesThePattern : Prop :=
  ∀ s t : State, step s = .next t → t.evValid = true →
    isTimecodeString t.payload.str = true ∧
    t.payload.str = BitVec.ofNat 88 (stringCode t.payload.hh.toNat t.payload.mm.toNat t.payload.ss.toNat
      t.payload.ff.toNat t.payload.df) ∧
    (charAt t.payload.str 8 = 0x3B#8 ↔ t.payload.df = true)

/-- R118 to R120: every event ends at the triggering bit's timestamp, and starts before it exactly under PRE_TS, and
then by exactly the span; otherwise the start wraps once. -/
def Obligations.StartPrecedesEndExactlyUnderPreTs : Prop :=
  ∀ (s t : State) (b : Bit) (ts : Nat), s.cfg.wf = true → ts < 2 ^ s.cfg.tsW →
    exec (.submit b ts) s = .next t → t.evValid = true →
    t.payload.endTs = ts ∧ (t.payload.startTs < t.payload.endTs ↔ PreTs s.cfg ts) ∧
    (PreTs s.cfg ts → t.payload.endTs - t.payload.startTs = s.cfg.spanTicks) ∧
    (¬ PreTs s.cfg ts → t.payload.startTs = ts + 2 ^ s.cfg.tsW - s.cfg.spanTicks)

/-- R131: the validator's result reaches `EV_VAL` and nothing else.  A SUBMIT performed with any six flags `v` in the
place of VALIDATE's result ends as the SUBMIT does, event or none, window and payload, but for `EV_VAL` of an event,
which is then `v`; that the parts of a SUBMIT can be performed one by one, and the flags put between them, is the model's
(log entries 4 and 7).  R132: a block built for another rate steps alike but for `EV_VAL` of an event. -/
def Obligations.ValidatorGatesNothing : Prop :=
  (∀ (s : State) (b : Bit) (ts : Nat) (v : BitVec 6), ∃ m u t : State,
    execAll (partsBeforeValidate b) { s with wires := Wires.quiet } = .next m ∧
    execAll (partsAfterValidate ts) { m with wires := { m.wires with val := v } } = .next u ∧
    exec (.submit b ts) s = .next t ∧
    { u with wires := t.wires } =
      if t.evValid then { t with payload := { t.payload with val := v } } else t) ∧
  (∀ (s t : State) (r : FrameRate), step s = .next t →
    ∃ v : BitVec 6,
      step (s.builtFor r) = .next { t.builtFor r with payload := { t.payload with val := v } } ∧
      (t.evValid = false → v = t.payload.val))

/-- R25: the event registers are never read: two states that differ only in them step alike. -/
def Obligations.EventRegistersAreNeverRead : Prop :=
  ∀ (s t : State) (v : Bit) (p : Payload), step s = .next t →
    ∃ u, step { s with evValid := v, payload := p } = .next u ∧ u.w = t.w ∧ u.cnt = t.cnt ∧
      u.evValid = t.evValid ∧ u.event = t.event

/-- R66, R170: a timestamp reaches state only through the two timestamps of an event. -/
def Obligations.TimestampReachesOnlyTheEvent : Prop :=
  ∀ (s t : State) (b : Bit) (ts ts' : Nat), exec (.submit b ts) s = .next t →
    ∃ a e : Nat,
      exec (.submit b ts') s = .next { t with payload := { t.payload with startTs := a, endTs := e } } ∧
      (t.evValid = false → a = t.payload.startTs ∧ e = t.payload.endTs)

/-- R81, R170: an IDLE before a SUBMIT changes nothing the SUBMIT computes. -/
def Obligations.IdleBeforeSubmitChangesNothing : Prop :=
  ∀ (s t : State) (b : Bit) (ts : Nat), exec .idle s = .next t →
    exec (.submit b ts) t = exec (.submit b ts) s

/-- R55, R50 (d): under the caller's contract the ends of successive events do not decrease, IDLEs among the samples or
not. -/
def Obligations.EventEndsFollowTheContract : Prop :=
  ∀ (s : State) (l rest : List Pins), s.inputs = l ++ rest → (∀ p ∈ l, p.rst = false) →
    CallerContract s.cfg (samplesOf l) →
    List.Pairwise (fun p q : Payload => p.endTs ≤ q.endTs) (s.events l.length)

/-- R141, R147: a SUBMIT raises SyncMismatch exactly when the window is full without the sync word, raises nothing else
ever, and then keeps the shifted window, full, with no event and the payload unchanged.  That the class raised is given by
the function `submitRaises` of the state and the bit, beside `exec`, is the model's, log entry 13. -/
def Obligations.SyncMismatchIsSilent : Prop :=
  ∀ (s : State) (b : Bit) (ts : Nat),
    (submitRaises s b = some ErrorClass.syncMismatch ↔
      79 ≤ s.cnt.val ∧ slice (windowAfter s.w b).toNat 64 16 ≠ 0xBFFC) ∧
    (∀ e, submitRaises s b = some e → e = ErrorClass.syncMismatch ∧
      ∃ x : Wires, exec (.submit b ts) s = .next
        { s with w := windowAfter s.w b, cnt := 80, evValid := false, wires := x })

/-- R25, U10: an instruction that neither emits nor resets leaves the whole payload as it was. -/
def Obligations.PayloadHeldUntilNextEventOrReset : Prop :=
  ∀ (i : Instr) (s t : State), exec i s = .next t → i ≠ .reset → t.evValid = false → t.payload = s.payload

/-- R20, R21: `W` and `CNT` are written only by RESET, by a SUBMIT (its FULL_TEST, CLEAR and RETAIN) and by the frame
word a SUBMIT performs; the parameters and the samples by no instruction at all. -/
def Obligations.WindowWrittenOnlyByTheStatedOperations : Prop :=
  ∀ (i : Instr) (s t : State), exec i s = .next t →
    t.cfg = s.cfg ∧ t.inputs = s.inputs ∧
    (i ≠ .reset → (∀ b ts, i ≠ .submit b ts) → (∀ x ts, i ≠ .ltcFrame x ts) → (∀ f, i ≠ .noSync f) →
      i ≠ .fullTest → i ≠ .clear → i ≠ .retain → t.w = s.w ∧ t.cnt = s.cnt)
end

