-- ==== Sys2Proof/Laws/Decode.lean ====
section
/-! SUPPORT. Words as numbers and bit by bit: what the encoder writes, what the sync comparison reads. -/

namespace Sys2Proof

/-- Bits side by side as a number: the left one in the more significant place (R9). -/
theorem toNat_append_eq {m n : Nat} (a : BitVec m) (b : BitVec n) :
    (a ++ b).toNat = a.toNat * 2 ^ n + b.toNat := by
  rw [BitVec.toNat_append, Nat.shiftLeft_eq, Nat.mul_comm, Nat.two_pow_add_eq_or_of_lt b.isLt]

/-- The frame word of R63 as a number: each field at its offset. -/
theorem toNat_encodeFrame (x : FrameFields) :
    (encodeFrame x).toNat =
      x.framesUnits.toNat + x.framesTens.toNat * 2 ^ 8 + x.dropFrame.toNat * 2 ^ 10 + x.colorFrame.toNat * 2 ^ 11 +
        x.secondsUnits.toNat * 2 ^ 16 + x.secondsTens.toNat * 2 ^ 24 + x.minutesUnits.toNat * 2 ^ 32 +
        x.minutesTens.toNat * 2 ^ 40 + x.hoursUnits.toNat * 2 ^ 48 + x.hoursTens.toNat * 2 ^ 56 +
        0xBFFC * 2 ^ 64 := by
  unfold encodeFrame
  rw [toNat_append_eq]
  simp only [toNat_append_eq]
  simp [syncWord]
  ring

/-- One bit of a word, as a bit field of width one. -/
theorem extractLsb'_one_beq (f : FrameWord) (k : Nat) : (f.extractLsb' k 1 == 1#1) = f.getLsbD k := by
  rw [Bool.eq_iff_iff, beq_iff_eq]
  constructor
  · intro h
    have h0 := congrArg (fun v => BitVec.getLsbD v 0) h
    simpa using h0
  · intro h
    apply BitVec.eq_of_getLsbD_eq
    intro i hi
    have hi0 : i = 0 := by omega
    subst hi0
    simpa using h

/-- The sync comparison as a number (R91). -/
theorem syncMatches_iff (f : FrameWord) : Machine.syncMatches f = true ↔ f.toNat / 2 ^ 64 = 0xBFFC := by
  have hf := f.isLt
  unfold Machine.syncMatches Machine.memRead
  rw [beq_iff_eq, ← BitVec.toNat_inj, BitVec.extractLsb'_toNat, Nat.shiftRight_eq_div_pow]
  have hw : syncWord.toNat = 0xBFFC := by decide
  rw [hw]
  omega

/-- `(F and MASK) == MATCH` of R64 is the comparison of the sixteen bits of R91. -/
theorem isLtcFrame_eq_syncMatches (f : FrameWord) : isLtcFrame f = Machine.syncMatches f := by
  have hbits : ∀ i, i < 80 → (f &&& ltcMask).getLsbD i = if 64 ≤ i then f.getLsbD i else false := by
    have hmask : ∀ i, i < 80 → ltcMask.getLsbD i = decide (64 ≤ i) := by decide
    intro i hi
    rw [BitVec.getLsbD_and, hmask i hi]
    by_cases h : 64 ≤ i <;> simp [h]
  have hmatch : ∀ k, k < 16 → ltcMatch.getLsbD (64 + k) = syncWord.getLsbD k := by decide
  have hlow : ∀ i, i < 64 → ltcMatch.getLsbD i = false := by decide
  unfold isLtcFrame Machine.syncMatches Machine.memRead
  rw [Bool.eq_iff_iff, beq_iff_eq, beq_iff_eq]
  constructor
  · intro h
    apply BitVec.eq_of_getLsbD_eq
    intro k hk
    rw [← hmatch k hk, ← h, hbits (64 + k) (by omega), if_pos (by omega), BitVec.getLsbD_extractLsb']
    simp [hk]
  · intro h
    apply BitVec.eq_of_getLsbD_eq
    intro i hi
    rw [hbits i hi]
    by_cases h64 : 64 ≤ i
    · obtain ⟨k, rfl⟩ : ∃ k, i = 64 + k := ⟨i - 64, by omega⟩
      rw [if_pos h64, hmatch k (by omega), ← h, BitVec.getLsbD_extractLsb']
      simp [show k < 16 by omega]
    · rw [if_neg h64, hlow i (by omega)]

end Sys2Proof
end

