-- ==== Sys2Proof/Laws/State.lean ====
section
/-! SUPPORT. One lemma for each field under each named update of State, true by rfl. -/

namespace Sys2Proof.Machine

@[simp] theorem State.writeWindow_cfg (s : State) (w : FrameWord) (c : Fin 81) : (s.writeWindow w c).cfg = s.cfg := rfl
@[simp] theorem State.writeWindow_w (s : State) (w : FrameWord) (c : Fin 81) : (s.writeWindow w c).w = w := rfl
@[simp] theorem State.writeWindow_cnt (s : State) (w : FrameWord) (c : Fin 81) : (s.writeWindow w c).cnt = c := rfl
@[simp] theorem State.writeWindow_evValid (s : State) (w : FrameWord) (c : Fin 81) : (s.writeWindow w c).evValid = s.evValid := rfl
@[simp] theorem State.writeWindow_payload (s : State) (w : FrameWord) (c : Fin 81) : (s.writeWindow w c).payload = s.payload := rfl
@[simp] theorem State.writeWindow_wires (s : State) (w : FrameWord) (c : Fin 81) : (s.writeWindow w c).wires = s.wires := rfl
@[simp] theorem State.writeWindow_inputs (s : State) (w : FrameWord) (c : Fin 81) : (s.writeWindow w c).inputs = s.inputs := rfl

@[simp] theorem State.dropValid_cfg (s : State) : (s.dropValid).cfg = s.cfg := rfl
@[simp] theorem State.dropValid_w (s : State) : (s.dropValid).w = s.w := rfl
@[simp] theorem State.dropValid_cnt (s : State) : (s.dropValid).cnt = s.cnt := rfl
@[simp] theorem State.dropValid_evValid (s : State) : (s.dropValid).evValid = false := rfl
@[simp] theorem State.dropValid_payload (s : State) : (s.dropValid).payload = s.payload := rfl
@[simp] theorem State.dropValid_wires (s : State) : (s.dropValid).wires = s.wires := rfl
@[simp] theorem State.dropValid_inputs (s : State) : (s.dropValid).inputs = s.inputs := rfl

@[simp] theorem State.present_cfg (s : State) (p : Payload) : (s.present p).cfg = s.cfg := rfl
@[simp] theorem State.present_w (s : State) (p : Payload) : (s.present p).w = s.w := rfl
@[simp] theorem State.present_cnt (s : State) (p : Payload) : (s.present p).cnt = s.cnt := rfl
@[simp] theorem State.present_evValid (s : State) (p : Payload) : (s.present p).evValid = true := rfl
@[simp] theorem State.present_payload (s : State) (p : Payload) : (s.present p).payload = p := rfl
@[simp] theorem State.present_wires (s : State) (p : Payload) : (s.present p).wires = s.wires := rfl
@[simp] theorem State.present_inputs (s : State) (p : Payload) : (s.present p).inputs = s.inputs := rfl

@[simp] theorem State.withWires_cfg (s : State) (x : Wires) : (s.withWires x).cfg = s.cfg := rfl
@[simp] theorem State.withWires_w (s : State) (x : Wires) : (s.withWires x).w = s.w := rfl
@[simp] theorem State.withWires_cnt (s : State) (x : Wires) : (s.withWires x).cnt = s.cnt := rfl
@[simp] theorem State.withWires_evValid (s : State) (x : Wires) : (s.withWires x).evValid = s.evValid := rfl
@[simp] theorem State.withWires_payload (s : State) (x : Wires) : (s.withWires x).payload = s.payload := rfl
@[simp] theorem State.withWires_wires (s : State) (x : Wires) : (s.withWires x).wires = x := rfl
@[simp] theorem State.withWires_inputs (s : State) (x : Wires) : (s.withWires x).inputs = s.inputs := rfl

@[simp] theorem State.settle_cfg (s : State) : (s.settle).cfg = s.cfg := rfl
@[simp] theorem State.settle_w (s : State) : (s.settle).w = s.w := rfl
@[simp] theorem State.settle_cnt (s : State) : (s.settle).cnt = s.cnt := rfl
@[simp] theorem State.settle_evValid (s : State) : (s.settle).evValid = s.evValid := rfl
@[simp] theorem State.settle_payload (s : State) : (s.settle).payload = s.payload := rfl
@[simp] theorem State.settle_wires (s : State) : (s.settle).wires = Wires.quiet := rfl
@[simp] theorem State.settle_inputs (s : State) : (s.settle).inputs = s.inputs := rfl

@[simp] theorem State.withInputs_cfg (s : State) (l : List Pins) : (s.withInputs l).cfg = s.cfg := rfl
@[simp] theorem State.withInputs_w (s : State) (l : List Pins) : (s.withInputs l).w = s.w := rfl
@[simp] theorem State.withInputs_cnt (s : State) (l : List Pins) : (s.withInputs l).cnt = s.cnt := rfl
@[simp] theorem State.withInputs_evValid (s : State) (l : List Pins) : (s.withInputs l).evValid = s.evValid := rfl
@[simp] theorem State.withInputs_payload (s : State) (l : List Pins) : (s.withInputs l).payload = s.payload := rfl
@[simp] theorem State.withInputs_wires (s : State) (l : List Pins) : (s.withInputs l).wires = s.wires := rfl
@[simp] theorem State.withInputs_inputs (s : State) (l : List Pins) : (s.withInputs l).inputs = l := rfl

@[simp] theorem State.afterSample_cfg (s : State) : (s.afterSample).cfg = s.cfg := rfl
@[simp] theorem State.afterSample_w (s : State) : (s.afterSample).w = s.w := rfl
@[simp] theorem State.afterSample_cnt (s : State) : (s.afterSample).cnt = s.cnt := rfl
@[simp] theorem State.afterSample_evValid (s : State) : (s.afterSample).evValid = s.evValid := rfl
@[simp] theorem State.afterSample_payload (s : State) : (s.afterSample).payload = s.payload := rfl
@[simp] theorem State.afterSample_wires (s : State) : (s.afterSample).wires = s.wires := rfl
@[simp] theorem State.afterSample_inputs (s : State) : (s.afterSample).inputs = s.inputs.tail := rfl

@[simp] theorem State.cleared_cfg (s : State) : (s.cleared).cfg = s.cfg := rfl
@[simp] theorem State.cleared_w (s : State) : (s.cleared).w = 0#80 := rfl
@[simp] theorem State.cleared_cnt (s : State) : (s.cleared).cnt = 0 := rfl
@[simp] theorem State.cleared_evValid (s : State) : (s.cleared).evValid = false := rfl
@[simp] theorem State.cleared_payload (s : State) : (s.cleared).payload = Payload.zero := rfl
@[simp] theorem State.cleared_wires (s : State) : (s.cleared).wires = Wires.quiet := rfl
@[simp] theorem State.cleared_inputs (s : State) : (s.cleared).inputs = s.inputs := rfl

@[simp] theorem State.raiseError_eq (s : State) (e : ErrorClass) : s.raiseError e = s := rfl

end Sys2Proof.Machine
end

