-- ==== Sys2Proof/Laws/Ops.lean ====
section
/-! SUPPORT. What each shared operation can do, said once: the guards of R62, the shift-in bit by bit, the count,
the field assembly and the timestamps as numbers. -/

namespace Sys2Proof.Machine

theorem State.whenFull_of_full {s : State} (h : s.wires.full = true) (g : State → State) : s.whenFull g = g s := by
  simp [State.whenFull, h]

theorem State.whenFull_of_not_full {s : State} (h : s.wires.full = false) (g : State → State) :
    s.whenFull g = s := by
  simp [State.whenFull, h]

theorem State.whenMatch_of_match {s : State} (hf : s.wires.full = true) (hm : s.wires.syncMatch = true)
    (g : State → State) : s.whenMatch g = g s := by
  simp [State.whenMatch, hf, hm]

theorem State.whenMatch_of_not_full {s : State} (h : s.wires.full = false) (g : State → State) :
    s.whenMatch g = s := by
  simp [State.whenMatch, h]

theorem State.whenMatch_of_mismatch {s : State} (h : s.wires.syncMatch = false) (g : State → State) :
    s.whenMatch g = s := by
  simp [State.whenMatch, h]

theorem State.whenMismatch_of_mismatch {s : State} (hf : s.wires.full = true) (hm : s.wires.syncMatch = false)
    (g : State → State) : s.whenMismatch g = g s := by
  simp [State.whenMismatch, hf, hm]

theorem State.whenMismatch_of_not_full {s : State} (h : s.wires.full = false) (g : State → State) :
    s.whenMismatch g = s := by
  simp [State.whenMismatch, h]

theorem State.whenMismatch_of_match {s : State} (h : s.wires.syncMatch = true) (g : State → State) :
    s.whenMismatch g = s := by
  simp [State.whenMismatch, h]

/-- R82 bit by bit: the new bit at 79, every other bit from one place above. -/
theorem getLsbD_shiftedIn (w : FrameWord) (b : Bit) (i : Nat) :
    (shiftedIn w b).getLsbD i = if i = 79 then b else w.getLsbD (i + 1) := by
  unfold shiftedIn
  rw [BitVec.getLsbD_append, BitVec.getLsbD_extractLsb']
  by_cases h : i < 79
  · have h' : i ≠ 79 := by omega
    simp [h, h', Nat.add_comm]
  · rcases Nat.lt_or_ge 79 i with h79 | h79
    · have h1 : i - 79 ≠ 0 := by omega
      have h2 : i ≠ 79 := by omega
      simp [h, h2, BitVec.getLsbD_ofBool, h1, BitVec.getLsbD_of_ge w (i + 1) (by omega)]
    · have h2 : i = 79 := by omega
      subst h2
      simp

@[simp] theorem countedUp_val (c : Fin 81) : (countedUp c).val = min (c.val + 1) 80 := rfl

/-- R84: the window is full after the update exactly when `CNT >= 79` before it. -/
theorem isFull_countedUp (c : Fin 81) : isFull (countedUp c) = decide (79 ≤ c.val) := by
  have hc := c.isLt
  unfold isFull fullCount
  rw [Bool.eq_iff_iff]
  simp only [beq_iff_eq, Fin.ext_iff, countedUp_val, decide_eq_true_eq]
  constructor <;> intro h <;> simp at * <;> omega

/-- A field read as a number is the slice of R9. -/
theorem toNat_memRead (f : FrameWord) (off w : Nat) : (memRead f off w).toNat = f.toNat / 2 ^ off % 2 ^ w := by
  simp [memRead, BitVec.extractLsb'_toNat, Nat.shiftRight_eq_div_pow]

/-- R65, R107: the sum is exact, it never wraps. -/
theorem toNat_assembleField {u t : Nat} (units : BitVec u) (tens : BitVec t) (hu : u ≤ 4) (ht : t ≤ 3) :
    (assembleField units tens).toNat = units.toNat + 10 * tens.toNat := by
  have h1 : units.toNat < 16 := Nat.lt_of_lt_of_le units.isLt (Nat.pow_le_pow_right (by decide) hu)
  have h2 : tens.toNat < 8 := Nat.lt_of_lt_of_le tens.isLt (Nat.pow_le_pow_right (by decide) ht)
  simp only [assembleField, BitVec.toNat_add, BitVec.toNat_mul, BitVec.toNat_setWidth, BitVec.toNat_ofNat]
  omega

/-- R65: what a two-digit field can be. -/
theorem toNat_assembleField_le {u t : Nat} (units : BitVec u) (tens : BitVec t) (hu : u ≤ 4) (ht : t ≤ 3) :
    (assembleField units tens).toNat ≤ (2 ^ u - 1) + 10 * (2 ^ t - 1) := by
  rw [toNat_assembleField units tens hu ht]
  have h1 := units.isLt
  have h2 := tens.isLt
  omega

theorem tsReg_lt (c : Config) (v : Nat) : tsReg c v < 2 ^ c.tsW := Nat.mod_lt _ (Nat.two_pow_pos _)

theorem tsReg_of_lt {c : Config} {v : Nat} (h : v < 2 ^ c.tsW) : tsReg c v = v := Nat.mod_eq_of_lt h

/-- The start read off the register that holds the end is the start of the timestamp itself (R119). -/
theorem startTimestamp_tsReg (c : Config) (ts : Nat) :
    startTimestamp c (tsReg c ts) = startTimestamp c ts := by
  unfold startTimestamp tsReg
  congr 1
  push_cast
  rw [Int.sub_emod, Int.emod_emod_of_dvd _ (dvd_refl _), ← Int.sub_emod]

theorem startTimestamp_lt (c : Config) (ts : Nat) : startTimestamp c ts < 2 ^ c.tsW := by
  unfold startTimestamp
  have hpos : (0 : Int) < 2 ^ c.tsW := by positivity
  have h0 := Int.emod_nonneg ((ts : Int) - (c.spanTicks : Int)) (ne_of_gt hpos)
  have h1 := Int.emod_lt_of_pos ((ts : Int) - (c.spanTicks : Int)) hpos
  zify
  rw [Int.toNat_of_nonneg h0]
  exact h1

theorem startTimestamp_eq_emod (c : Config) (ts : Nat) :
    startTimestamp c ts = (((ts : Int) - (c.spanTicks : Int)) % ((2 ^ c.tsW : Nat) : Int)).toNat := by
  simp [startTimestamp]

/-- R119 where the subtraction does not go below the origin. -/
theorem startTimestamp_of_le {c : Config} {ts : Nat} (hts : ts < 2 ^ c.tsW) (h : c.spanTicks ≤ ts) :
    startTimestamp c ts = ts - c.spanTicks := by
  rw [startTimestamp_eq_emod]
  generalize 2 ^ c.tsW = m at hts
  rw [Int.emod_eq_of_lt (by omega) (by omega)]
  omega

/-- R120: where it does, it wraps once. -/
theorem startTimestamp_of_lt {c : Config} {ts : Nat} (hspan : c.spanTicks < 2 ^ c.tsW)
    (h : ts < c.spanTicks) : startTimestamp c ts = ts + 2 ^ c.tsW - c.spanTicks := by
  rw [startTimestamp_eq_emod]
  generalize 2 ^ c.tsW = m at hspan
  rw [← Int.add_emod_right, Int.emod_eq_of_lt (by omega) (by omega)]
  omega

end Sys2Proof.Machine
end

