-- ==== Sys2Proof/Laws/Submit.lean ====
section
/-! SUPPORT. SUBMIT and the frame words in closed form: the chain of sub-operations (R62) said once as the two ways
an operation ends (R85), so that later proofs never unfold the chain. -/

namespace Sys2Proof.Machine

/-- What EMIT presents for a frame word (R100 to R105, R115 to R119, R130), as the chain computes it. -/
def decodedPayload (c : Config) (f : FrameWord) (ts : Nat) : Payload :=
  { startTs := startTimestamp c ts
    endTs := endTimestamp c ts
    str := timecodeString (assembleField (memRead f 48 4) (memRead f 56 2))
      (assembleField (memRead f 32 4) (memRead f 40 3)) (assembleField (memRead f 16 4) (memRead f 24 3))
      (assembleField (memRead f 0 4) (memRead f 8 2)) (dropFrameFlag f)
    hh := assembleField (memRead f 48 4) (memRead f 56 2)
    mm := assembleField (memRead f 32 4) (memRead f 40 3)
    ss := assembleField (memRead f 16 4) (memRead f 24 3)
    ff := assembleField (memRead f 0 4) (memRead f 8 2)
    df := dropFrameFlag f
    cf := colorFrameFlag f
    val := packFlags (dropFrameOk c.fps (dropFrameFlag f))
      (hoursOk (assembleField (memRead f 48 4) (memRead f 56 2)))
      (sixtyOk (assembleField (memRead f 32 4) (memRead f 40 3)))
      (sixtyOk (assembleField (memRead f 16 4) (memRead f 24 3)))
      (framesOk c.fps (assembleField (memRead f 0 4) (memRead f 8 2)))
      (bcdOk (memRead f 0 4) (memRead f 16 4) (memRead f 32 4) (memRead f 48 4)) }

/-- The end of an operation that emits: the event presented, the window cleared (R93, R121). -/
def State.emitting (s : State) (p : Payload) : State := ((s.present p).writeWindow 0#80 0).settle

/-- The end of an operation that does not: the window kept, the pulse ended (R84, R94). -/
def State.keeping (s : State) (w : FrameWord) (c : Fin 81) : State := (s.writeWindow w c).dropValid.settle

/-- Sub-operations 6 to 12 after a match, whatever the other wires hold. -/
theorem afterSyncCheck_of_match (ts : Nat) (s : State) (hf : s.wires.full = true)
    (hm : s.wires.syncMatch = true) :
    (afterSyncCheck ts s).settle = s.emitting (decodedPayload s.cfg s.wires.f ts) := by
  simp [afterSyncCheck, retainOp, clearOp, emitOp, timestampOp, formatOp, validateOp, flagColorOp, flagDropOp,
    extractHoursOp, extractMinutesOp, extractSecondsOp, extractFramesOp, State.whenMatch, State.whenMismatch,
    hf, hm, State.emitting, decodedPayload, Wires.toPayload, validatorFlags, State.withWires, State.present,
    State.writeWindow, State.settle]

/-- Sub-operations 6 to 12 after a mismatch: only RETAIN acts. -/
theorem afterSyncCheck_of_mismatch (ts : Nat) (s : State) (hf : s.wires.full = true)
    (hm : s.wires.syncMatch = false) :
    (afterSyncCheck ts s).settle = s.keeping s.wires.w1 fullCount := by
  simp [afterSyncCheck, retainOp, clearOp, emitOp, timestampOp, formatOp, validateOp, flagColorOp, flagDropOp,
    extractHoursOp, extractMinutesOp, extractSecondsOp, extractFramesOp, State.whenMatch, State.whenMismatch,
    hf, hm, State.keeping]

/-- Sub-operations 6 to 12 of a SUBMIT whose window is not full: none acts. -/
theorem afterSyncCheck_of_not_full (ts : Nat) (s : State) (hf : s.wires.full = false) :
    afterSyncCheck ts s = s := by
  simp [afterSyncCheck, retainOp, clearOp, emitOp, timestampOp, formatOp, validateOp, flagColorOp, flagDropOp,
    extractHoursOp, extractMinutesOp, extractSecondsOp, extractFramesOp, State.whenMatch, State.whenMismatch, hf]

theorem eq_fullCount_of_isFull {c : Fin 81} (h : isFull c = true) : c = fullCount := by
  simpa [isFull] using h

/-- SUBMIT in closed form: either the window after the shift-in is full and its sync field matches, and the
operation emits; or it keeps the window (R85). -/
theorem execSubmit_eq (b : Bit) (ts : Nat) (s : State) :
    execSubmit b ts s = .next
      (if isFull (countedUp s.cnt) && syncMatches (shiftedIn s.w b) then
        s.emitting (decodedPayload s.cfg (shiftedIn s.w b) ts)
      else s.keeping (shiftedIn s.w b) (countedUp s.cnt)) := by
  unfold execSubmit submitOps
  congr 1
  by_cases hf : isFull (countedUp s.cnt) = true
  · by_cases hm : syncMatches (shiftedIn s.w b) = true
    · rw [afterSyncCheck_of_match]
      all_goals simp [syncCheckOp, packOp, fullTestOp, countOp, shiftInOp, State.whenFull, hf, hm,
        State.emitting, State.withWires, State.settle, State.present, State.writeWindow]
    · have hc := eq_fullCount_of_isFull hf
      rw [afterSyncCheck_of_mismatch, ← hc]
      all_goals simp [syncCheckOp, packOp, fullTestOp, countOp, shiftInOp, State.whenFull, hf, hm,
        State.keeping, State.withWires, State.settle, State.dropValid, State.writeWindow]
  · rw [afterSyncCheck_of_not_full]
    all_goals simp [syncCheckOp, packOp, fullTestOp, countOp, shiftInOp, State.whenFull, hf,
        State.keeping, keepAccumulating, State.withWires, State.settle, State.dropValid, State.writeWindow]

/-- A decode attempt in closed form. -/
theorem attemptOn_eq (f : FrameWord) (m : Bool) (ts : Nat) (s : State) :
    attemptOn f m ts s =
      if m then s.emitting (decodedPayload s.cfg f ts) else s.keeping f fullCount := by
  unfold attemptOn
  cases m
  · rw [afterSyncCheck_of_mismatch _ _ rfl rfl]; rfl
  · rw [afterSyncCheck_of_match _ _ rfl rfl]; rfl

@[simp] theorem State.emitting_cfg (s : State) (p : Payload) : (s.emitting p).cfg = s.cfg := rfl
@[simp] theorem State.emitting_w (s : State) (p : Payload) : (s.emitting p).w = 0#80 := rfl
@[simp] theorem State.emitting_cnt (s : State) (p : Payload) : (s.emitting p).cnt = 0 := rfl
@[simp] theorem State.emitting_evValid (s : State) (p : Payload) : (s.emitting p).evValid = true := rfl
@[simp] theorem State.emitting_payload (s : State) (p : Payload) : (s.emitting p).payload = p := rfl
@[simp] theorem State.emitting_wires (s : State) (p : Payload) : (s.emitting p).wires = Wires.quiet := rfl
@[simp] theorem State.emitting_inputs (s : State) (p : Payload) : (s.emitting p).inputs = s.inputs := rfl
@[simp] theorem State.keeping_cfg (s : State) (w : FrameWord) (c : Fin 81) : (s.keeping w c).cfg = s.cfg := rfl
@[simp] theorem State.keeping_w (s : State) (w : FrameWord) (c : Fin 81) : (s.keeping w c).w = w := rfl
@[simp] theorem State.keeping_cnt (s : State) (w : FrameWord) (c : Fin 81) : (s.keeping w c).cnt = c := rfl
@[simp] theorem State.keeping_evValid (s : State) (w : FrameWord) (c : Fin 81) :
    (s.keeping w c).evValid = false := rfl
@[simp] theorem State.keeping_payload (s : State) (w : FrameWord) (c : Fin 81) :
    (s.keeping w c).payload = s.payload := rfl
@[simp] theorem State.keeping_wires (s : State) (w : FrameWord) (c : Fin 81) :
    (s.keeping w c).wires = Wires.quiet := rfl
@[simp] theorem State.keeping_inputs (s : State) (w : FrameWord) (c : Fin 81) :
    (s.keeping w c).inputs = s.inputs := rfl

/-- The two ways a SUBMIT ends, said once. -/
theorem execSubmit_cases (b : Bit) (ts : Nat) (s : State) :
    (79 ≤ s.cnt.val ∧ syncMatches (shiftedIn s.w b) = true ∧
      execSubmit b ts s = .next (s.emitting (decodedPayload s.cfg (shiftedIn s.w b) ts))) ∨
    (¬ (79 ≤ s.cnt.val ∧ syncMatches (shiftedIn s.w b) = true) ∧
      execSubmit b ts s = .next (s.keeping (shiftedIn s.w b) (countedUp s.cnt))) := by
  have e := execSubmit_eq b ts s
  have hi : isFull (countedUp s.cnt) = true ↔ 79 ≤ s.cnt.val := by rw [isFull_countedUp]; simp
  by_cases h : (isFull (countedUp s.cnt) && syncMatches (shiftedIn s.w b)) = true
  · rw [if_pos h] at e
    rw [Bool.and_eq_true, hi] at h
    exact .inl ⟨h.1, h.2, e⟩
  · rw [if_neg h] at e
    rw [Bool.and_eq_true, hi] at h
    exact .inr ⟨h, e⟩

theorem execLtcFrame_eq (x : FrameFields) (ts : Nat) (s : State) :
    execLtcFrame x ts s = .next (s.emitting (decodedPayload s.cfg (encodeFrame x) ts)) := by
  rw [execLtcFrame, attemptOn_eq, if_pos rfl]

theorem execNoSync_eq (f : FrameWord) (s : State) : execNoSync f s = .next (s.keeping f fullCount) := by
  rw [execNoSync, attemptOn_eq]
  rfl

/-- The word `01b` selects SUBMIT of `b` (R61). -/
theorem decodeCommand_submitWord (b : Bit) (ts : Nat) : decodeCommand (submitWord b) ts = .submit b ts := by
  cases b <;> simp [decodeCommand, submitWord]

@[simp] theorem Pins.submit_cmd (b : Bit) (ts : Nat) : (Pins.submit b ts).cmd = submitWord b := by
  have h : ∀ b : Bit, BitVec.ofBool false ++ BitVec.ofBool true ++ BitVec.ofBool b = submitWord b := by decide
  exact h b

/-- What one step can do, said once: RESET clears, IDLE ends the pulse, SUBMIT emits or keeps. -/
theorem step_cases (s : State) :
    ∃ t, step s = .next t ∧
      (t = s.afterSample.cleared ∨ t = s.afterSample.dropValid.settle ∨
        ∃ b ts, ts < 2 ^ s.cfg.tsW ∧ execSubmit b ts s.afterSample = .next t) := by
  have hts : tsReg s.cfg s.pins.bitTs < 2 ^ s.cfg.tsW := tsReg_lt _ _
  unfold step State.fetch decode decodeCommand
  by_cases h1 : s.pins.cmd &&& 0b100#3 = 0b100#3
  · refine ⟨_, ?_, .inl rfl⟩
    simp only [h1, if_true]; rfl
  · by_cases h2 : s.pins.cmd &&& 0b110#3 = 0b000#3
    · refine ⟨_, ?_, .inr (.inl rfl)⟩
      simp only [h1, h2, if_true, if_false]; rfl
    · refine ⟨_, ?_, .inr (.inr ⟨s.pins.cmd.getLsbD 0, _, hts, rfl⟩)⟩
      simp only [h1, h2, if_false]; rfl

end Sys2Proof.Machine
end

