-- ==== Sys2Proof/Laws/EventStream.lean ====
section
/-! SUPPORT. Runs of several edges: a run one edge at a time, and the IDLEs of a run left out (R81, R170). -/

namespace Sys2Proof.Machine

theorem State.after_succ {s t : State} (h : step s = .next t) (k : Nat) : s.after (k + 1) = t.after k := by
  rw [State.after, h]

theorem State.events_succ {s t : State} (h : step s = .next t) (k : Nat) :
    s.events (k + 1) = t.event.toList ++ t.events k := by
  rw [State.events, h]

/-- `EV_VALID` and the combinational values are written by every operation and read by none. -/
theorem step_ignores (s : State) (v : Bit) (x : Wires) : step { s with evValid := v, wires := x } = step s := by
  have hf : decode ({ s with evValid := v, wires := x } : State).fetch = decode s.fetch := rfl
  unfold step
  rw [hf]
  unfold State.fetch decode decodeCommand
  dsimp only
  split_ifs
  · rfl
  · rfl
  · show execSubmit _ _ _ = execSubmit _ _ _
    simp [execSubmit_eq, State.emitting, State.keeping, State.present, State.writeWindow, State.dropValid,
      State.settle, State.afterSample, State.withInputs]

theorem State.events_ignores (s : State) (v : Bit) (x : Wires) (k : Nat) :
    ({ s with evValid := v, wires := x } : State).events k = s.events k := by
  cases k with
  | zero => rfl
  | succ k => simp only [State.events, step_ignores]

theorem State.after_ignores (s : State) (v : Bit) (x : Wires) (k : Nat) :
    ∃ v' x', ({ s with evValid := v, wires := x } : State).after k = { s.after k with evValid := v', wires := x' } := by
  cases k with
  | zero => exact ⟨v, x, rfl⟩
  | succ k =>
    obtain ⟨t, h, -⟩ := step_cases s
    exact ⟨_, _, by rw [State.after_succ h, State.after_succ ((step_ignores s v x).trans h)]⟩

/-- The step at an edge with no reset: an IDLE, or the SUBMIT of the sample presented. -/
theorem step_of_no_reset {s : State} {p : Pins} {l : List Pins} (h : s.inputs = p :: l) (hr : p.rst = false) :
    step s =
      if p.bitValid then execSubmit p.bitValue (tsReg s.cfg p.bitTs) (s.withInputs l)
      else .next (s.withInputs l).dropValid.settle := by
  have key : ∀ (v b : Bit) (ts : Nat), decodeCommand (BitVec.ofBool false ++ BitVec.ofBool v ++ BitVec.ofBool b) ts =
      if v then .submit b ts else .idle := by
    intro v b ts
    cases v <;> cases b <;> simp [decodeCommand]
  have hp : s.pins = p := by simp [State.pins, h]
  have ha : s.afterSample = s.withInputs l := by simp [State.afterSample, h]
  unfold step State.fetch
  rw [ha, hp, decode, Pins.cmd, hr, key]
  cases p.bitValid <;> rfl

/-- A SUBMIT does the same whatever the caller has ready for later edges. -/
theorem execSubmit_withInputs {b : Bit} {ts : Nat} {s t : State} (h : execSubmit b ts s = .next t) (l : List Pins) :
    execSubmit b ts (s.withInputs l) = .next (t.withInputs l) := by
  rw [execSubmit_eq] at h ⊢
  injection h with h
  subst h
  congr 1
  by_cases hc : (isFull (countedUp s.cnt) && syncMatches (shiftedIn s.w b)) = true
  · rw [if_pos hc]; exact if_pos hc
  · rw [if_neg hc]; exact if_neg hc

/-- R81, R170: the IDLEs of a run change no event, and nothing of the state after it but the pulse. -/
theorem events_of_samples (l rest : List Pins) (s : State) (h : s.inputs = l ++ rest)
    (hr : ∀ p ∈ l, p.rst = false) :
    s.events l.length = (s.withInputs (sampleStream (samplesOf l) ++ rest)).events (samplesOf l).length ∧
    ∃ v x, s.after l.length =
      { (s.withInputs (sampleStream (samplesOf l) ++ rest)).after (samplesOf l).length with
        evValid := v, wires := x } := by
  induction l generalizing s with
  | nil => exact ⟨rfl, s.evValid, s.wires, by rw [← show s.inputs = rest from h]; rfl⟩
  | cons p l ih =>
    have hrl : ∀ q ∈ l, q.rst = false := fun q hq => hr q (List.mem_cons_of_mem _ hq)
    have e := step_of_no_reset (l := l ++ rest) h (hr p (List.mem_cons_self ..))
    by_cases hv : p.bitValid = true
    · rw [if_pos hv] at e
      obtain ⟨t, ht⟩ : ∃ t, execSubmit p.bitValue (tsReg s.cfg p.bitTs) (s.withInputs (l ++ rest)) = .next t :=
        ⟨_, rfl⟩
      have hti : t.inputs = l ++ rest := by
        rcases execSubmit_cases p.bitValue (tsReg s.cfg p.bitTs) (s.withInputs (l ++ rest)) with ⟨-, -, h'⟩ | ⟨-, h'⟩
        all_goals rw [ht] at h'; injection h' with h'; subst h'; rfl
      have hs : samplesOf (p :: l) = (p.bitValue, p.bitTs) :: samplesOf l := by simp [samplesOf, hv]
      have e' : step (s.withInputs (sampleStream (samplesOf (p :: l)) ++ rest)) =
          .next (t.withInputs (sampleStream (samplesOf l) ++ rest)) := by
        refine (step_of_no_reset (p := Pins.submit p.bitValue p.bitTs) (l := sampleStream (samplesOf l) ++ rest)
          (by rw [hs]; rfl) rfl).trans ?_
        exact execSubmit_withInputs ht _
      obtain ⟨h1, v, x, h2⟩ := ih t hti hrl
      rw [List.length_cons, State.events_succ (e.trans ht), State.after_succ (e.trans ht), hs, List.length_cons,
        ← hs, State.events_succ e', State.after_succ e', h1]
      exact ⟨rfl, v, x, h2⟩
    · rw [if_neg hv] at e
      have hs : samplesOf (p :: l) = samplesOf l := by simp [samplesOf, hv]
      obtain ⟨h1, v, x, h2⟩ := ih _ (State.withInputs_inputs s (l ++ rest)) hrl
      rw [List.length_cons, State.events_succ e, State.after_succ e, hs]
      have hi : (s.withInputs (l ++ rest)).dropValid.settle =
          { s.withInputs (l ++ rest) with evValid := false, wires := Wires.quiet } := rfl
      obtain ⟨v', x', h3⟩ := State.after_ignores (s.withInputs (l ++ rest)) false Wires.quiet l.length
      rw [hi, State.events_ignores, h1, h3, h2]
      exact ⟨rfl, _, _, rfl⟩

end Sys2Proof.Machine
end

