-- ==== Sys2Proof/Laws/PerInstr.lean ====
section
/-! SUPPORT. Facts about every instruction as syntax, one lemma a constructor. -/

namespace Sys2Proof.Laws

/-- The SUBMIT that spells a well-formed sub-operation is itself well-formed, and spells itself (R62). -/
def SpelledWell.Statement (i : Instr) : Prop :=
  (∀ c, wellFormed c i = true → wellFormed c (spelledBy i) = true) ∧ spelledBy (spelledBy i) = spelledBy i

namespace SpelledWell

theorem reset : Statement .reset := ⟨fun _ h => h, rfl⟩
theorem idle : Statement .idle := ⟨fun _ h => h, rfl⟩
theorem submit (b : Bit) (ts : Nat) : Statement (.submit b ts) := ⟨fun _ h => h, rfl⟩
theorem ltcFrame (x : FrameFields) (ts : Nat) : Statement (.ltcFrame x ts) := ⟨fun _ h => h, rfl⟩
theorem noSync (f : FrameWord) : Statement (.noSync f) := ⟨fun _ h => h, rfl⟩
theorem shiftIn (b : Bit) : Statement (.shiftIn b) :=
  ⟨fun c _ => by simp [spelledBy, wellFormed, fitsTsPins], rfl⟩
theorem count : Statement .count := ⟨fun c _ => by simp [spelledBy, wellFormed, fitsTsPins], rfl⟩
theorem fullTest : Statement .fullTest := ⟨fun c _ => by simp [spelledBy, wellFormed, fitsTsPins], rfl⟩
theorem pack : Statement .pack := ⟨fun c _ => by simp [spelledBy, wellFormed, fitsTsPins], rfl⟩
theorem syncCheck : Statement .syncCheck := ⟨fun c _ => by simp [spelledBy, wellFormed, fitsTsPins], rfl⟩
theorem extractFrames : Statement .extractFrames :=
  ⟨fun c _ => by simp [spelledBy, wellFormed, fitsTsPins], rfl⟩
theorem extractSeconds : Statement .extractSeconds :=
  ⟨fun c _ => by simp [spelledBy, wellFormed, fitsTsPins], rfl⟩
theorem extractMinutes : Statement .extractMinutes :=
  ⟨fun c _ => by simp [spelledBy, wellFormed, fitsTsPins], rfl⟩
theorem extractHours : Statement .extractHours :=
  ⟨fun c _ => by simp [spelledBy, wellFormed, fitsTsPins], rfl⟩
theorem flagDrop : Statement .flagDrop := ⟨fun c _ => by simp [spelledBy, wellFormed, fitsTsPins], rfl⟩
theorem flagColor : Statement .flagColor := ⟨fun c _ => by simp [spelledBy, wellFormed, fitsTsPins], rfl⟩
theorem validate : Statement .validate := ⟨fun c _ => by simp [spelledBy, wellFormed, fitsTsPins], rfl⟩
theorem format : Statement .format := ⟨fun c _ => by simp [spelledBy, wellFormed, fitsTsPins], rfl⟩
theorem timestamp (ts : Nat) : Statement (.timestamp ts) := ⟨fun _ h => h, rfl⟩
theorem emit : Statement .emit := ⟨fun c _ => by simp [spelledBy, wellFormed, fitsTsPins], rfl⟩
theorem clear : Statement .clear := ⟨fun c _ => by simp [spelledBy, wellFormed, fitsTsPins], rfl⟩
theorem retain : Statement .retain := ⟨fun c _ => by simp [spelledBy, wellFormed, fitsTsPins], rfl⟩

end SpelledWell

end Sys2Proof.Laws
end

