-- ==== Sys2Proof/Tests/Slice0.lean ====
section
/-! SUPPORT. The model's own tests.  Expected values are those of the spec's vectors (spec/95_test_vectors.md) or of
the examples inside its rules; each theorem names its source.  The witnesses at the end meet the hypotheses of the
statements. -/

namespace Sys2Proof.Tests

open Sys2Proof.Machine

/-- A block at the default parameters with a given window, count and pulse. -/
def blockAt (w : FrameWord) (cnt : Fin 81) (valid : Bit) : State :=
  { State.reset with w := w, cnt := cnt, evValid := valid, payload := { Payload.zero with hh := 9#7 } }

/-- The step after a frame word has been placed in the window of a freshly reset block, its last bit at `ts`. -/
def frameAt (f : FrameWord) (ts : Nat) : State :=
  { State.reset with w := f <<< 1, cnt := 79, inputs := [Pins.submit (f.getLsbD 79) ts] }

/-- The registers after one step. -/
def stepped (s : State) : State :=
  match step s with
  | .next t => t
  | .fault _ => s
  | .refused _ => s

/-- The state an instruction leads to. -/
def performed (i : Instr) (s : State) : State :=
  match exec i s with
  | .next t => t
  | .fault _ => s
  | .refused _ => s

/-- Word A of spec/95_test_vectors.md. -/
def wordA : FrameWord := 0xBFFC0001020304050102#80

/-- Wires in the middle of a decode attempt that matched on a frame word. -/
def matchedOn (f : FrameWord) : Wires :=
  { Wires.quiet with w1 := f, c1 := 80, full := true, f := f, syncMatch := true }

/-- A block in the middle of such an attempt. -/
def attemptAt (f : FrameWord) : State := { State.reset with wires := matchedOn f }

/-! ### Decoding: one word for each format, and what shares it (R61, R63, INDEX.md) -/

theorem test_decode_reset : decodeTableWord 8 0b100 = some .reset := by decide
theorem test_decode_reset_ignores_the_sample : decodeTableWord 8 0b111 = some .reset := by decide
theorem test_decode_idle : decodeTableWord 8 0b001 = some .idle := by decide
theorem test_decode_submit_one : decodeTableWord 8 0b011 = some (.submit true 0) := by decide
theorem test_decode_submit_zero : decodeTableWord 8 0b010 = some (.submit false 0) := by decide

/-- R63's picture with word A's digits: `HH=00 hhhh=0001 MMM=010 mmmm=0011 SSS=100 ssss=0101 c=0 d=0 FF=01 ffff=0010`. -/
theorem test_decode_ltc_frame :
    decodeTableWord 80 0b10111111111111000000000000000001000000100000001100000100000001010000000100000010 =
      some (.ltcFrame (FrameFields.mk 2 1 false false 5 4 3 2 1 0) 0) := by decide

/-- V42.17: every unread bit 1, every read bit 0. -/
theorem test_decode_ltc_frame_unread :
    decodeTableWord 80 0xBFFCFCF0F8F0F8F0F0F0 =
      some (.ltcFrame (FrameFields.mk 0 0 false false 0 0 0 0 0 0) 0) := by decide

/-- V41.7: the sync word the wrong way round. -/
theorem test_decode_no_sync :
    decodeTableWord 80 0x3FFD0000000000000000 = some (.noSync 0x3FFD0000000000000000#80) := by decide

/-- The rows of the sub-operations carry SUBMIT's word `01b` (INDEX.md): it decodes to the SUBMIT they are part of. -/
theorem test_decode_sub_operations :
    ∀ i ∈ subOperations false 0, decodeTableWord 8 0b010 = some (spelledBy i) := by decide

theorem test_decode_refuses_other_lengths : decodeBits 16 0b010 0 = .error (.noWordOfThisLength 16) := by rfl
theorem test_decode_refuses_stray_bits : decodeBits 8 0b1000 0 = .error (.bitOutsideTheWord 8) := by rfl

/-- The words named A, A2 and C in spec/95_test_vectors.md. -/
theorem test_enc_named_words :
    enc 1 23 45 12 false false = wordA ∧ enc 1 23 45 12 true false = 0xBFFC0001020304050502#80 ∧
      enc 1 23 45 14 true false = 0xBFFC0001020304050504#80 := by decide

/-- The arrival string of A starts `01000000 10000000 10100000` (spec/95_test_vectors.md). -/
theorem test_arrival_string :
    (arrivalBits wordA).take 24 =
      [false, true, false, false, false, false, false, false, true, false, false, false, false, false, false, false,
        true, false, true, false, false, false, false, false] := by decide

/-! ### WellFormed: an ill-formed term for each check -/

theorem test_wellFormed_refuses_wide_submit :
    wellFormed { Config.standard with tsW := 16 } (.submit true 65536) = false := by decide
theorem test_wellFormed_refuses_wide_timestamp :
    wellFormed { Config.standard with tsW := 16 } (.timestamp 65536) = false := by decide
theorem test_wellFormed_refuses_wide_frame_timestamp :
    wellFormed { Config.standard with tsW := 16 } (.ltcFrame (fieldsOf wordA) 65536) = false := by decide
theorem test_wellFormed_refuses_sync_in_no_sync : wellFormed Config.standard (.noSync wordA) = false := by decide
theorem test_wellFormed_accepts :
    wellFormed Config.standard (.submit true (2 ^ 64 - 1)) = true ∧
      wellFormed Config.standard (.noSync 0xBFFD0000000000000000#80) = true := by decide

/-! ### The bit window -/

/-- V40.1, V40.10: RESET from `CNT = 57`, a sample presented with it discarded. -/
theorem test_reset :
    stepped { blockAt 0x123#80 57 true with inputs := [⟨true, true, true, 500⟩] } = State.reset := by decide

/-- V40.2. -/
theorem test_idle :
    stepped (blockAt 0x123#80 80 true) = blockAt 0x123#80 80 false := by decide

/-- V40.3, V40.4: the first two bits after reset. -/
theorem test_submit_first_bits :
    stepped { State.reset with inputs := [Pins.submit false 500] } = { State.reset with cnt := 1 } ∧
      stepped { blockAt 0#80 1 false with inputs := [Pins.submit true 1000] } =
        blockAt 0x80000000000000000000#80 2 false := by decide

/-- V40.8: saturation; V40.9: 78 to 79 without an attempt, though the sync word is in place. -/
theorem test_submit_saturates :
    stepped { blockAt 0#80 80 false with inputs := [Pins.submit true 7] } = blockAt 0x80000000000000000000#80 80 false ∧
      stepped { blockAt (wordA <<< 1) 78 false with inputs := [Pins.submit true 7] } = blockAt wordA 79 false := by
  decide

/-- R82's example: `W = 0x...0003`, `b = 1`. -/
theorem test_shiftIn :
    (performed (.shiftIn true) (blockAt 0x3#80 5 false)).wires.w1 = 0x80000000000000000001#80 := by decide

/-- R83's examples. -/
theorem test_count :
    (performed .count (blockAt 0#80 79 false)).wires.c1 = 80 ∧ (performed .count (blockAt 0#80 80 false)).wires.c1 = 80 ∧
      (performed .count (blockAt 0#80 0 false)).wires.c1 = 1 := by decide

/-- R84's example: `C1 = 79` is not full, and the SUBMIT ends there. -/
theorem test_fullTest :
    performed .fullTest { blockAt 0#80 78 true with wires := { Wires.quiet with w1 := 5#80, c1 := 79 } } =
      { blockAt 5#80 79 false with wires := { Wires.quiet with w1 := 5#80, c1 := 79 } } := by decide

/-! ### Sync detection -/

/-- R90's example: the packed word is the window. -/
theorem test_pack :
    (performed .pack { State.reset with wires := { Wires.quiet with w1 := wordA, full := true } }).wires.f = wordA := by
  decide

/-- V41.1, the comparison alone. -/
theorem test_syncCheck : syncMatches 0xBFFC0000000000000000#80 = true := by decide

/-- V41.2 to V41.13. -/
theorem test_syncCheck_mismatches :
    syncMatches 0xBFFD0000000000000000#80 = false ∧ syncMatches 0xBFF80000000000000000#80 = false ∧
      syncMatches 0x3FFC0000000000000000#80 = false ∧ syncMatches 0xFFFC0000000000000000#80 = false ∧
      syncMatches 0xBFFE0000000000000000#80 = false ∧ syncMatches 0x3FFD0000000000000000#80 = false ∧
      syncMatches 0x00000000000000000000#80 = false ∧ syncMatches 0xFFFF0000000000000000#80 = false ∧
      syncMatches 0x5FFE0000000000000000#80 = false ∧ syncMatches 0x7FF80000000000000000#80 = false ∧
      syncMatches 0xBFF40000000000000000#80 = false ∧ syncMatches 0x9FFC0000000000000000#80 = false := by decide

/-- V41.2: a mismatch keeps the window. -/
theorem test_no_sync_keeps_the_window :
    stepped (frameAt 0xBFFD0000000000000000#80 40000) =
      { State.reset with w := 0xBFFD0000000000000000#80, cnt := 80 } := by decide

/-- V41.14: one more bit after V41.10. -/
theorem test_slide :
    stepped { blockAt 0x5FFE0000000000000000#80 80 false with inputs := [Pins.submit true 40500] } =
      blockAt 0xAFFF0000000000000000#80 80 false := by decide

/-- R93: the window and the count go to zero. -/
theorem test_clear :
    performed .clear { attemptAt wordA with w := 7#80, cnt := 80 } = attemptAt wordA := by decide

/-- R94: the shifted window stays. -/
theorem test_retain :
    (performed .retain { attemptAt 0x5#80 with wires := { matchedOn 0x5#80 with syncMatch := false } }).w = 0x5#80 := by
  decide

/-! ### BCD extraction -/

/-- V42.3, V42.6: 15 + 30 = 45, 12 + 10 = 22. -/
theorem test_extractFrames :
    (performed .extractFrames (attemptAt 0xBFFC000000000000030F#80)).wires.frames = 45#7 ∧
      (performed .extractFrames (attemptAt 0xBFFC000000000000010C#80)).wires.frames = 22#7 := by decide

/-- V42.9, V42.18: 85, and bit 27 is no part of the tens. -/
theorem test_extractSeconds :
    (performed .extractSeconds (attemptAt 0xBFFC00000000070F0000#80)).wires.seconds = 85#7 ∧
      (performed .extractSeconds (attemptAt 0xBFFC0000000008000000#80)).wires.seconds = 0#7 := by decide

/-- V42.10. -/
theorem test_extractMinutes :
    (performed .extractMinutes (attemptAt 0xBFFC0000050900000000#80)).wires.minutes = 59#7 := by decide

/-- V42.13. -/
theorem test_extractHours :
    (performed .extractHours (attemptAt 0xBFFC0204000000000000#80)).wires.hours = 24#7 := by decide

/-- V42.15, V42.16: bit 10 alone, bit 11 alone. -/
theorem test_flags :
    (performed .flagDrop (attemptAt 0xBFFC0000000000000400#80)).wires.dropFrame = true ∧
      (performed .flagColor (attemptAt 0xBFFC0000000000000400#80)).wires.colorFrame = false ∧
      (performed .flagDrop (attemptAt 0xBFFC0000000000000800#80)).wires.dropFrame = false ∧
      (performed .flagColor (attemptAt 0xBFFC0000000000000800#80)).wires.colorFrame = true := by decide

/-! ### Formatting, timestamps, emission -/

/-- V43.1 to V43.5. -/
theorem test_dec2 :
    dec2 0#7 = (0x30#8, 0x30#8) ∧ dec2 7#7 = (0x30#8, 0x37#8) ∧ dec2 10#7 = (0x31#8, 0x30#8) ∧
      dec2 59#7 = (0x35#8, 0x39#8) ∧ dec2 85#7 = (0x38#8, 0x35#8) := by decide

/-- V43.6 to V43.9. -/
theorem test_format :
    timecodeString 1#7 23#7 45#7 12#7 false = 0x30313A32333A34353A3132#88 ∧
      timecodeString 1#7 23#7 45#7 12#7 true = 0x30313A32333A34353B3132#88 ∧
      timecodeString 45#7 85#7 85#7 45#7 true = 0x34353A38353A38353B3435#88 ∧
      timecodeString 0#7 0#7 0#7 0#7 false = 0x30303A30303A30303A3030#88 := by decide

/-- V43.10 to V43.15, at the default parameters. -/
theorem test_timestamp :
    startTimestamp Config.standard 40000 = 8000 ∧ startTimestamp Config.standard 32000 = 0 ∧
      startTimestamp Config.standard 31999 = 0xFFFFFFFFFFFFFFFF ∧
      startTimestamp Config.standard 0 = 0xFFFFFFFFFFFF8300 ∧
      startTimestamp Config.standard 8000 = 0xFFFFFFFFFFFFA240 ∧
      startTimestamp Config.standard (2 ^ 64 - 1) = 0xFFFFFFFFFFFF82FF := by decide

/-- V43.16 to V43.19, at other parameters. -/
theorem test_timestamp_parameters :
    startTimestamp { Config.standard with ticksPerMs := 1 } 40 = 8 ∧
      startTimestamp { Config.standard with ticksPerMs := 48000 } 1920000 = 384000 ∧
      startTimestamp { Config.standard with tsW := 16 } 40000 = 8000 ∧
      startTimestamp { Config.standard with tsW := 16 } 100 = 0x8364 := by decide

/-- EMIT copies each value to its register (R121). -/
theorem test_emit :
    (performed .emit { attemptAt wordA with
        wires := { matchedOn wordA with
                   hours := 1#7, minutes := 2#7, seconds := 3#7, frames := 4#7, colorFrame := true, endTs := 9,
                   startTs := 8 } }).event =
      some { Payload.zero with hh := 1#7, mm := 2#7, ss := 3#7, ff := 4#7, cf := true, endTs := 9, startTs := 8 } := by
  decide

/-- S1, V40.7: the last bit of A. -/
theorem test_submit_emits :
    stepped (frameAt wordA 40000) =
      { State.reset with
        evValid := true
        payload := { startTs := 8000, endTs := 40000, str := 0x30313A32333A34353A3132#88, hh := 1#7, mm := 23#7,
                     ss := 45#7, ff := 12#7, df := false, cf := false, val := 0b111111#6 } } := by decide

/-- V42.20, V44.2, P6: every data bit 1. -/
theorem test_ltcFrame_everything_one :
    performed (.ltcFrame (fieldsOf 0xBFFCFFFFFFFFFFFFFFFF#80) 40000) State.reset =
      { State.reset with
        evValid := true
        payload := { startTs := 8000, endTs := 40000, str := 0x34353A38353A38353B3435#88, hh := 45#7, mm := 85#7,
                     ss := 85#7, ff := 45#7, df := true, cf := true, val := 0b100000#6 } } := by decide

/-- V41.8 as a frame word of its own. -/
theorem test_noSync : performed (.noSync 0#80) (blockAt 5#80 80 true) = blockAt 0#80 80 false := by decide

/-! ### The validator -/

/-- The flags of a frame word in a block built for a rate. -/
def flagsAt (f : FrameWord) (r : FrameRate) : BitVec 6 := (stepped ((frameAt f 40000).builtFor r)).payload.val

/-- V44.5 to V44.8. -/
theorem test_validate_rates :
    flagsAt 0xBFFC0000000000000204#80 .fps24 = 0b111101#6 ∧ flagsAt 0xBFFC0000000000000204#80 .fps25 = 0b111111#6 ∧
      flagsAt 0xBFFC0000000000000205#80 .fps25 = 0b111101#6 ∧ flagsAt 0xBFFC0000000000000205#80 .fps30 = 0b111111#6 ∧
      flagsAt 0xBFFC0000000000000203#80 .fps24 = 0b111111#6 ∧ flagsAt 0xBFFC0000000000000400#80 .fps25 = 0b011111#6 := by
  decide

/-- V44.3, V44.4, V44.9 to V44.13. -/
theorem test_validate_ranges :
    flagsAt 0xBFFC000000000000000A#80 .fps30 = 0b111110#6 ∧ flagsAt 0xBFFC000000000000030F#80 .fps30 = 0b111100#6 ∧
      flagsAt 0xBFFC0000000006000000#80 .fps30 = 0b111011#6 ∧ flagsAt 0xBFFC00000000070F0000#80 .fps30 = 0b111010#6 ∧
      flagsAt 0xBFFC0000070F00000000#80 .fps30 = 0b110110#6 ∧ flagsAt 0xBFFC0204000000000000#80 .fps30 = 0b101111#6 ∧
      flagsAt 0xBFFC030F000000000000#80 .fps30 = 0b101110#6 := by decide

/-! ### Words placed for the host -/

/-- A frame word placed after reset is the word the next step performs. -/
theorem test_withFetchWord_frame :
    (stepped (State.reset.withFetchWord 80 0xBFFC0001020304050102)).payload.str = 0x30313A32333A34353A3132#88 := by decide

/-- So is a command word. -/
theorem test_withFetchWord_command :
    stepped (State.reset.withFetchWord 8 0b011) = { State.reset with w := 0x80000000000000000000#80, cnt := 1 } := by
  decide

/-! ### Witnesses: states and operands that meet the hypotheses of the statements -/

theorem standard_wf : Config.standard.wf = true := by decide

/-- SubmitComputesTheStatedNextState, LtcFrameWordEmitsItsEventAndClears, TimestampGivesTheEndAndTheStart, at both ends
of the timestamp's range. -/
theorem witness_parameters_and_timestamp :
    State.reset.cfg.wf = true ∧ 0 < 2 ^ State.reset.cfg.tsW ∧ 2 ^ 64 - 1 < 2 ^ State.reset.cfg.tsW ∧
      (attemptAt wordA).wires.full = true ∧ (attemptAt wordA).wires.syncMatch = true ∧
      (attemptAt wordA).cfg.wf = true ∧ State.reset.cfg.spanTicks ≤ 32000 ∧ ¬ State.reset.cfg.spanTicks ≤ 31999 := by
  decide

/-- FullTestContinuesOrEndsTheSubmit, both clauses at the boundary. -/
theorem witness_fullTest :
    (matchedOn wordA).c1.val = 80 ∧ ({ matchedOn wordA with c1 := 79 } : Wires).c1.val ≠ 80 := by decide

/-- PackCopiesTheShiftedWindow, SyncCheckComparesSixteenBits, ClearAndRetainEndTheAttempt and the statements about
sub-operations 6 to 11; UnperformedSubOperationsChangeNothing. -/
theorem witness_attempt :
    (attemptAt wordA).wires.full = true ∧ (attemptAt wordA).wires.syncMatch = true ∧
      ({ matchedOn 0#80 with syncMatch := false } : Wires).full = true ∧
      ({ matchedOn 0#80 with syncMatch := false } : Wires).syncMatch = false ∧
      State.reset.wires.full = false ∧ (State.reset.wires.full && State.reset.wires.syncMatch) = false := by decide

/-- CommandWordsDecodeAsTabled: a word for each clause. -/
theorem witness_command_words :
    0b111#3 &&& 0b100#3 = 0b100#3 ∧ 0b001#3 &&& 0b110#3 = 0b000#3 ∧ 0b011#3 &&& 0b110#3 = 0b010#3 := by decide

/-- FrameWordsDecodeByTheSyncFieldAlone, NoSyncWordIsRetainedWithoutEvent, EncodingADecodedFrameKeepsItsReadBits,
UnreadBitsNeverMatter: both kinds of word, and two words that differ in unread bits only. -/
theorem witness_frame_words :
    wordA.toNat / 2 ^ 64 = 0xBFFC ∧ (0xBFFDFFFFFFFFFFFFFFFF#80).toNat / 2 ^ 64 ≠ 0xBFFC ∧
      isLtcFrame 0xBFFC0000000000000000#80 = true ∧ isLtcFrame 0#80 = false ∧
      0xBFFC0000000000000000#80 &&& readMask = 0xBFFCFCF0F8F0F8F0F0F0#80 &&& readMask := by decide

/-- DecodingAnEncodingGivesWhatItsWordSpells: a term of each kind. -/
theorem witness_wellFormed :
    wellFormed Config.standard (.noSync 0#80) = true ∧ wellFormed Config.standard (.ltcFrame (fieldsOf wordA) 5) = true ∧
      wellFormed Config.standard (.shiftIn true) = true := by decide

/-- Its first clause: an instruction that is no sub-operation. -/
theorem witness_no_subOperation (b : Bit) (ts : Nat) : Instr.noSync 0#80 ∉ subOperations b ts := by
  simp [subOperations, partsBeforeValidate, partsAfterValidate]

/-- TestEncoderReturnsItsValues, at the tops of the ranges. -/
theorem witness_enc_ranges : 39 / 10 ≤ 3 ∧ 79 / 10 ≤ 7 := by decide

/-- FullWindowSubmitRunsTheFrameWord and the clauses of CountFollowsThePhaseTable, at their boundaries. -/
theorem witness_counts :
    79 ≤ (blockAt (wordA <<< 1) 79 false).cnt.val ∧
      slice (windowAfter (blockAt (wordA <<< 1) 79 false).w true).toNat 64 16 = 0xBFFC ∧
      slice (windowAfter (blockAt (wordA <<< 1) 79 false).w false).toNat 64 16 ≠ 0xBFFC ∧
      (blockAt (wordA <<< 1) 78 false).cnt.val ≤ 78 := by decide

/-- StepRunsTheDecodedCommand, both clauses. -/
theorem witness_inputs :
    (frameAt wordA 5).inputs = Pins.submit true 5 :: [] ∧ State.reset.inputs = [] := by decide

/-- A presented event meets the invariant's shape. -/
theorem eventShape_of_wordA :
    EventShape Config.standard (stepped (frameAt wordA 40000)).payload where
  hours_le := by decide
  minutes_le := by decide
  seconds_le := by decide
  frames_le := by decide
  string := by decide
  end_lt := by decide
  start := by decide
  ff_ok := by decide
  ss_ok := by decide
  mm_ok := by decide
  hh_ok := by decide
  df_ok := by decide

/-- NoTwoConsecutiveEvents: the state after an event meets the invariant and shows the event. -/
theorem witness_presented_event :
    Inv (stepped (frameAt wordA 40000)) ∧ (stepped (frameAt wordA 40000)).evValid = true := by
  refine ⟨⟨?_, fun _ => ⟨by decide, by decide, eventShape_of_wordA⟩, .inr eventShape_of_wordA, by decide⟩, by decide⟩
  intro i _
  have h : (stepped (frameAt wordA 40000)).w = 0#80 := by decide
  rw [h]; simp

/-- StepKeepsTheInvariant: a state in mid-frame that meets it, and steps. -/
theorem witness_invariant_state :
    Inv { State.reset with inputs := [Pins.submit true 500] } ∧
      step { State.reset with inputs := [Pins.submit true 500] } =
        .next { State.reset with w := 0x80000000000000000000#80, cnt := 1 } := by
  refine ⟨⟨?_, fun h => by simp [State.reset, State.resetWith] at h, .inl rfl, rfl⟩, by rfl⟩
  intro i _; simp [State.reset, State.resetWith]

/-- EventStringMatchesThePattern, CombinationalValuesAreNotKept and the statements about one step: a step that emits. -/
theorem witness_emitting_step :
    step (frameAt wordA 40000) = .next (stepped (frameAt wordA 40000)) ∧
      (stepped (frameAt wordA 40000)).evValid = true := ⟨by rfl, by decide⟩

/-- StartPrecedesEndExactlyUnderPreTs, TimestampReachesOnlyTheEvent: a SUBMIT that emits, on both sides of PRE_TS. -/
theorem witness_emitting_submit (ts : Nat) (h : ts = 32000 ∨ ts = 31999) :
    (blockAt (wordA <<< 1) 79 false).cfg.wf = true ∧ ts < 2 ^ (blockAt (wordA <<< 1) 79 false).cfg.tsW ∧
      exec (.submit true ts) (blockAt (wordA <<< 1) 79 false) =
        .next (performed (.submit true ts) (blockAt (wordA <<< 1) 79 false)) ∧
      (performed (.submit true ts) (blockAt (wordA <<< 1) 79 false)).evValid = true := by
  rcases h with rfl | rfl <;> exact ⟨by decide, by decide, rfl, by decide⟩

theorem witness_preTs : PreTs Config.standard 32000 ∧ ¬ PreTs Config.standard 31999 := by
  constructor <;> unfold PreTs <;> decide

/-- TimestampReachesOnlyTheEvent, its last clause, and IdleBeforeSubmitChangesNothing. -/
theorem witness_silent_submit :
    exec (.submit true 7) (blockAt 0#80 5 false) = .next (performed (.submit true 7) (blockAt 0#80 5 false)) ∧
      (performed (.submit true 7) (blockAt 0#80 5 false)).evValid = false ∧
      exec .idle (blockAt 0#80 5 true) = .next (performed .idle (blockAt 0#80 5 true)) := ⟨rfl, by decide, rfl⟩

/-- EventEndsFollowTheContract: samples with equal timestamps, an IDLE between them. -/
theorem witness_contract :
    let l := [Pins.submit true 5, Pins.idle, Pins.submit false 5, Pins.submit true 9]
    ({ State.reset with inputs := l } : State).inputs = l ++ [] ∧ (∀ p ∈ l, p.rst = false) ∧
      CallerContract State.reset.cfg (samplesOf l) := by
  unfold CallerContract; decide

/-- FifoPropertyOverRuns: three edges from reset, one of them idle, and a RESET left over. -/
theorem witness_run :
    let l := [Pins.submit true 1, Pins.idle, Pins.submit false 2]
    let s : State := { State.reset with inputs := l ++ [⟨true, false, false, 0⟩] }
    s.cnt = 0 ∧ s.inputs = l ++ [⟨true, false, false, 0⟩] ∧ (∀ p ∈ l, p.rst = false) ∧ s.events l.length = [] := by
  decide

/-- NoEventBeforeTheWindowFills, at its boundary. -/
theorem witness_blind_interval : State.reset.cnt.val + 79 ≤ 79 := by decide

/-- MalformedTimecodeIsEmittedAsComputed: a malformed and a well-formed timecode, at FPS 30; the first shows in the flags
(V42.20, V44.2). -/
theorem witness_malformed :
    malformedTimecode (fieldsOf 0xBFFCFFFFFFFFFFFFFFFF#80) = true ∧ malformedTimecode (fieldsOf wordA) = false ∧
      State.reset.cfg.wf = true ∧ 40000 < 2 ^ State.reset.cfg.tsW ∧ State.reset.cfg.fps = .fps30 := by decide

/-- ResetStateHoldsTheStatedValues. -/
theorem witness_reset :
    State.reset = State.resetWith Config.standard [] := by decide

/-- SyncMismatchIsSilent: a state that raises. -/
theorem witness_raises : submitRaises (blockAt 0#80 79 false) true = some ErrorClass.syncMismatch := by decide

/-- PayloadHeldUntilNextEventOrReset, WindowWrittenOnlyByTheStatedOperations: an instruction outside each list. -/
theorem witness_frames :
    exec .pack (blockAt 0#80 79 false) = .next (performed .pack (blockAt 0#80 79 false)) ∧
      (performed .pack (blockAt 0#80 79 false)).evValid = false ∧ Instr.pack ≠ .reset ∧ Instr.pack ≠ .fullTest ∧
      Instr.pack ≠ .clear ∧ Instr.pack ≠ .retain ∧ (∀ b ts, Instr.pack ≠ .submit b ts) ∧
      (∀ x ts, Instr.pack ≠ .ltcFrame x ts) ∧ (∀ f, Instr.pack ≠ .noSync f) := by
  refine ⟨rfl, by decide, ?_, ?_, ?_, ?_, ?_, ?_, ?_⟩ <;> simp

/-- The samples of word A, one bit an edge, half a millisecond apart. -/
def samplesA : List (Bit × Nat) := bitsAt (arrivalBits wordA) 500 500

/-- Word A at the pins with an IDLE after every bit. -/
def gappedA : List Pins := samplesA.flatMap fun x => [Pins.submit x.1 x.2, Pins.idle]

/-- A block at reset with word A on its way, and a RESET after it. -/
def streamingA : State := { State.reset with inputs := gappedA ++ [⟨true, false, false, 0⟩] }

/-- The IDLEs present no sample. -/
theorem samplesOf_gappedA : samplesOf gappedA = samplesA := by decide +kernel

theorem gappedA_no_reset : ∀ p ∈ gappedA, p.rst = false := by decide +kernel

/-- BackToBackFramesEachGiveOneEvent, EncodedTimecodeYieldsItsString, NoEventWithoutTheSyncPattern: word A, with IDLEs. -/
theorem witness_frame_stream :
    streamingA.cnt = 0 ∧ streamingA.cfg.wf = true ∧ streamingA.inputs = gappedA ++ [⟨true, false, false, 0⟩] ∧
      (∀ p ∈ gappedA, p.rst = false) ∧ (∀ f ∈ [wordA], isLtcFrame f = true) ∧
      (samplesOf gappedA).map Prod.fst = [wordA].flatMap arrivalBits ∧
      (∀ x ∈ samplesOf gappedA, x.2 < 2 ^ streamingA.cfg.tsW) ∧
      (samplesOf gappedA).map Prod.fst = arrivalBits (enc 1 23 45 12 false false) ∧
      1 / 10 ≤ 3 ∧ 23 / 10 ≤ 7 ∧ 45 / 10 ≤ 7 ∧ 12 / 10 ≤ 3 := by
  rw [samplesOf_gappedA]
  exact ⟨rfl, rfl, rfl, gappedA_no_reset, by simp only [List.mem_singleton, forall_eq]; decide, by decide +kernel,
    by decide +kernel, by decide +kernel, by decide⟩

/-- EventPositionInTheStream: after the first 79 bits of A, each followed by an IDLE, the 80th completes the sync word. -/
theorem witness_position :
    let l := gappedA.take 158
    let p := Pins.submit true 40000
    let s : State := { State.reset with inputs := l ++ p :: [] }
    s.cnt = 0 ∧ s.inputs = l ++ p :: [] ∧ (∀ q ∈ p :: l, q.rst = false) ∧ p.bitValid = true ∧
      s.events l.length = [] ∧ s.cfg.wf = true ∧ p.bitTs < 2 ^ s.cfg.tsW ∧
      80 ≤ ((samplesOf l).map Prod.fst ++ [p.bitValue]).length ∧
      newest 16 ((samplesOf l).map Prod.fst ++ [p.bitValue]) = arrivalSync ∧
      newest 16 ((samplesOf l).map Prod.fst ++ [false]) ≠ arrivalSync := by
  refine ⟨rfl, rfl, by decide +kernel, rfl, by decide +kernel, rfl, by decide, by decide +kernel, by decide +kernel,
    by decide +kernel⟩

end Sys2Proof.Tests
end

section
/-! PROOFS of family 10_state: what every step keeps (R25, R27, R28, R31), what the window holds (R23), and which
registers an instruction can write (R20, R21, R25, R26). -/

namespace Sys2Proof.Machine

/-! ### One step, with the two ways a SUBMIT ends -/

/-- What one step leaves behind: RESET clears, IDLE ends the pulse, SUBMIT emits or keeps (R80, R81, R85). -/
theorem eq_of_step {s t : State} (h : step s = .next t) :
    t = s.afterSample.cleared ∨ t = s.afterSample.dropValid.settle ∨
      (∃ f ts, t = s.afterSample.emitting (decodedPayload s.cfg f ts)) ∨
      ∃ b, t = s.afterSample.keeping (shiftedIn s.w b) (countedUp s.cnt) := by
  obtain ⟨u, hu, hcases⟩ := step_cases s
  obtain rfl : u = t := Host.Outcome.next.inj (hu.symm.trans h)
  rcases hcases with rfl | rfl | ⟨b, ts, -, hsub⟩
  · exact .inl rfl
  · exact .inr (.inl rfl)
  · rcases execSubmit_cases b ts s.afterSample with ⟨-, -, e⟩ | ⟨-, e⟩
    · exact .inr (.inr (.inl ⟨_, ts, Host.Outcome.next.inj (hsub.symm.trans e)⟩))
    · exact .inr (.inr (.inr ⟨b, Host.Outcome.next.inj (hsub.symm.trans e)⟩))

/-! ### The invariant -/

/-- The validator's flags at their places in `val` (R130). -/
theorem getLsbD_packFlags (df hh mm ss ff bcd : Bool) :
    (packFlags df hh mm ss ff bcd).getLsbD 1 = ff ∧ (packFlags df hh mm ss ff bcd).getLsbD 2 = ss ∧
      (packFlags df hh mm ss ff bcd).getLsbD 3 = mm ∧ (packFlags df hh mm ss ff bcd).getLsbD 4 = hh ∧
      (packFlags df hh mm ss ff bcd).getLsbD 5 = df := by
  revert df hh mm ss ff bcd
  decide

/-- The validator's flags of an event agree with the values it presents (R130). -/
theorem getLsbD_decodedPayload_val (c : Config) (f : FrameWord) (ts : Nat) :
    (decodedPayload c f ts).val.getLsbD 1 = framesOk c.fps (decodedPayload c f ts).ff ∧
      (decodedPayload c f ts).val.getLsbD 2 = sixtyOk (decodedPayload c f ts).ss ∧
      (decodedPayload c f ts).val.getLsbD 3 = sixtyOk (decodedPayload c f ts).mm ∧
      (decodedPayload c f ts).val.getLsbD 4 = hoursOk (decodedPayload c f ts).hh ∧
      (decodedPayload c f ts).val.getLsbD 5 = dropFrameOk c.fps (decodedPayload c f ts).df :=
  getLsbD_packFlags ..

/-- Every frame word, in range or not, gives an event of the stated shape (R65, R117 to R119, R130). -/
theorem eventShape_decodedPayload (c : Config) (f : FrameWord) (ts : Nat) :
    EventShape c (decodedPayload c f ts) := by
  obtain ⟨hff, hss, hmm, hhh, hdf⟩ := getLsbD_decodedPayload_val c f ts
  exact
    { hours_le := toNat_assembleField_le _ _ (by decide) (by decide)
      minutes_le := toNat_assembleField_le _ _ (by decide) (by decide)
      seconds_le := toNat_assembleField_le _ _ (by decide) (by decide)
      frames_le := toNat_assembleField_le _ _ (by decide) (by decide)
      string := rfl
      end_lt := tsReg_lt c ts
      start := (startTimestamp_tsReg c ts).symm
      ff_ok := hff
      ss_ok := hss
      mm_ok := hmm
      hh_ok := hhh
      df_ok := hdf }

/-- A shift-in with its count moves no sample into a stale position: bit `i` after it is bit `i + 1` before it, and the
new bit lies at 79, which is counted (R31 (c), R82, R83). -/
theorem StaleZero.keeping {s : State} (h : StaleZero s) (b : Bit) :
    StaleZero (s.keeping (shiftedIn s.w b) (countedUp s.cnt)) := by
  intro i hi
  rw [State.keeping_cnt, countedUp_val] at hi
  rw [State.keeping_w, getLsbD_shiftedIn]
  split_ifs with h79
  · omega
  · exact h (i + 1) (by omega)

theorem Inv.afterSample {s : State} (h : Inv s) : Inv s.afterSample := ⟨h.stale, h.pulse, h.held, h.quiet⟩

/-- Nothing is counted, presented or held after reset. -/
theorem inv_resetWith (c : Config) (l : List Pins) : Inv (State.resetWith c l) where
  stale _ _ := BitVec.getLsbD_zero
  pulse h := absurd h Bool.false_ne_true
  held := .inl rfl
  quiet := rfl

/-- The end of an IDLE (R81). -/
theorem Inv.dropValid_settle {s : State} (h : Inv s) : Inv s.dropValid.settle where
  stale := h.stale
  pulse h := absurd h Bool.false_ne_true
  held := h.held
  quiet := rfl

/-- An operation that emits leaves the empty window the invariant asks for, whatever stood there (R93, R121). -/
theorem inv_emitting (s : State) {p : Payload} (hp : EventShape s.cfg p) : Inv (s.emitting p) where
  stale _ _ := BitVec.getLsbD_zero
  pulse _ := ⟨rfl, rfl, hp⟩
  held := .inr hp
  quiet := rfl

/-- A SUBMIT that does not emit (R84, R94). -/
theorem Inv.keeping {s : State} (h : Inv s) (b : Bit) : Inv (s.keeping (shiftedIn s.w b) (countedUp s.cnt)) where
  stale := h.stale.keeping b
  pulse h := absurd h Bool.false_ne_true
  held := h.held
  quiet := rfl

/-- Settles O37: each of the four things a step can do meets the invariant again. -/
theorem stepKeepsTheInvariant : Obligations.StepKeepsTheInvariant := by
  intro s t hs hstep
  rcases eq_of_step hstep with rfl | rfl | ⟨f, ts, rfl⟩ | ⟨b, rfl⟩
  · exact inv_resetWith _ _
  · exact hs.afterSample.dropValid_settle
  · exact inv_emitting _ (eventShape_decodedPayload _ f ts)
  · exact hs.afterSample.keeping b

/-- Settles O38: every register of the reset state is 0 (R33, R162). -/
theorem resetMeetsTheInvariant : Obligations.ResetMeetsTheInvariant :=
  ⟨inv_resetWith _ _, inv_resetWith⟩

/-! ### The abstract window -/

@[simp] theorem State.length_win (s : State) : s.win.length = s.cnt.val := by simp [State.win]

/-- Sample `k` of the abstract window, oldest first, in `W` (R23). -/
theorem State.getElem_win (s : State) (k : Nat) (h : k < s.win.length) :
    s.win[k] = s.w.getLsbD (80 - s.cnt.val + k) := by simp [State.win]

theorem State.win_of_cnt_zero {s : State} (h : s.cnt = 0) : s.win = [] := by simp [State.win, h]

/-- A SUBMIT without event appends its bit and keeps the last 80: position `k` of the new window is `W1[80 - C1 + k]`,
which is the new bit at 79 and otherwise the bit one place above (R23, R82, R83). -/
theorem State.win_keeping (s : State) (b : Bit) :
    (s.keeping (shiftedIn s.w b) (countedUp s.cnt)).win = newest 80 (s.win ++ [b]) := by
  have hcnt := s.cnt.isLt
  apply List.ext_getElem
  · simp only [newest, State.length_win, State.keeping_cnt, countedUp_val, List.length_drop, List.length_append,
      List.length_singleton]
    omega
  · intro k hk _
    rw [State.length_win, State.keeping_cnt, countedUp_val] at hk
    rw [State.getElem_win, State.keeping_cnt, State.keeping_w, countedUp_val, getLsbD_shiftedIn]
    simp only [newest, List.getElem_drop, List.getElem_append, List.length_append, State.length_win,
      List.length_singleton, State.getElem_win, List.getElem_singleton]
    by_cases hlast : 80 - min (s.cnt.val + 1) 80 + k = 79
    · rw [if_pos hlast, dif_neg (by omega)]
    · rw [if_neg hlast, dif_pos (by omega)]
      congr 1
      omega

/-- Settles O40: a SUBMIT that emits leaves `CNT` 0, one that does not is `State.win_keeping`. -/
theorem windowHoldsTheMostRecentBits : Obligations.WindowHoldsTheMostRecentBits := by
  intro s b ts
  refine ⟨?_, ⟨_, rfl, rfl⟩, ⟨_, rfl, State.win_of_cnt_zero rfl⟩⟩
  rcases execSubmit_cases b ts s with ⟨-, -, e⟩ | ⟨-, e⟩
  · exact ⟨_, e, State.win_of_cnt_zero rfl⟩
  · exact ⟨_, e, s.win_keeping b⟩

/-! ### What is neither kept nor read -/

/-- A command word selects one of the three whole operations (R61). -/
theorem decodeCommand_cases (cmd : CommandWord) (ts : Nat) :
    decodeCommand cmd ts = .reset ∨ decodeCommand cmd ts = .idle ∨ ∃ b, decodeCommand cmd ts = .submit b ts := by
  unfold decodeCommand
  split_ifs
  · exact .inl rfl
  · exact .inr (.inl rfl)
  · exact .inr (.inr ⟨_, rfl⟩)

/-- Settles O5: RESET clears the wires, and every other whole operation ends settled. -/
theorem combinationalValuesAreNotKept : Obligations.CombinationalValuesAreNotKept := by
  constructor
  · intro s t b ts x f i hi h
    simp only [List.mem_cons, List.not_mem_nil, or_false] at hi
    obtain rfl | rfl | rfl | rfl | rfl := hi <;> obtain rfl := Host.Outcome.next.inj h
    · exact State.cleared_wires _
    all_goals exact State.settle_wires _
  · intro s t h
    rcases eq_of_step h with rfl | rfl | ⟨f, ts, rfl⟩ | ⟨b, rfl⟩ <;> rfl

/-- Both ends of a SUBMIT are computed from `W`, `CNT`, the parameters and the operands; the one that keeps the payload
shows no event (R25, R85). -/
theorem execSubmit_ignores_event {s t : State} {b : Bit} {ts : Nat} (h : execSubmit b ts s = .next t) (v : Bit)
    (p : Payload) :
    ∃ u, execSubmit b ts { s with evValid := v, payload := p } = .next u ∧ u.w = t.w ∧ u.cnt = t.cnt ∧
      u.evValid = t.evValid ∧ u.event = t.event := by
  rw [execSubmit_eq] at h
  obtain rfl := Host.Outcome.next.inj h
  refine ⟨_, execSubmit_eq .., ?_⟩
  dsimp only
  split_ifs <;> exact ⟨rfl, rfl, rfl, rfl⟩

/-- Settles O52: what is fetched does not depend on the event registers, and no operation a command word selects reads
them. -/
theorem eventRegistersAreNeverRead : Obligations.EventRegistersAreNeverRead := by
  intro s t v p h
  have hstep : step { s with evValid := v, payload := p } =
      exec (decode s.fetch) { s.afterSample with evValid := v, payload := p } := rfl
  rw [hstep]
  unfold step at h
  rcases decodeCommand_cases s.pins.cmd (tsReg s.cfg s.pins.bitTs) with hd | hd | ⟨b, hd⟩ <;>
    rw [State.fetch, decode, hd] at h ⊢
  · obtain rfl := Host.Outcome.next.inj h
    exact ⟨_, rfl, rfl, rfl, rfl, rfl⟩
  · obtain rfl := Host.Outcome.next.inj h
    exact ⟨_, rfl, rfl, rfl, rfl, rfl⟩
  · exact execSubmit_ignores_event h v p

/-! ### What an instruction can write -/

/-- The sub-operations that only compute (R26). -/
def computingOps (b : Bit) (ts : Nat) : List Instr :=
  [.shiftIn b, .count, .pack, .syncCheck, .extractFrames, .extractSeconds, .extractMinutes, .extractHours, .flagDrop,
    .flagColor, .validate, .format, .timestamp ts]

/-- What instruction `i` performed on `s` can leave behind: the one list that the statements about every instruction are
read off (tied to the model by `effect_of_exec`). -/
inductive Effect (s : State) : Instr → State → Prop
  | reset : Effect s .reset s.cleared
  | idle : Effect s .idle s.dropValid.settle
  | submitEmits (b : Bit) (ts : Nat) (hcnt : 79 ≤ s.cnt.val) (hsync : syncMatches (shiftedIn s.w b) = true) :
      Effect s (.submit b ts) (s.emitting (decodedPayload s.cfg (shiftedIn s.w b) ts))
  | submitKeeps (b : Bit) (ts : Nat) (h : ¬ (79 ≤ s.cnt.val ∧ syncMatches (shiftedIn s.w b) = true)) :
      Effect s (.submit b ts) (s.keeping (shiftedIn s.w b) (countedUp s.cnt))
  | ltcFrame (x : FrameFields) (ts : Nat) :
      Effect s (.ltcFrame x ts) (s.emitting (decodedPayload s.cfg (encodeFrame x) ts))
  | noSync (f : FrameWord) : Effect s (.noSync f) (s.keeping f fullCount)
  | computes {i : Instr} (b : Bit) (ts : Nat) (x : Wires) (hi : i ∈ computingOps b ts) : Effect s i (s.withWires x)
  | fullTestGoesOn (x : Wires) (hfull : isFull s.wires.c1 = true) : Effect s .fullTest (s.withWires x)
  | fullTestEnds (x : Wires) (hfull : isFull s.wires.c1 = false) : Effect s .fullTest (keepAccumulating (s.withWires x))
  | emit : Effect s .emit (s.present s.wires.toPayload)
  | clear : Effect s .clear (s.writeWindow 0#80 0)
  | retain : Effect s .retain (s.writeWindow s.wires.w1 fullCount).dropValid
  | unperformed {i : Instr} (hi : i ∈ [Instr.emit, .clear, .retain]) : Effect s i s

theorem State.whenFull_cases (s : State) (g : State → State) : s.whenFull g = g s ∨ s.whenFull g = s :=
  ite_eq_or_eq ..

theorem State.whenMatch_cases (s : State) (g : State → State) : s.whenMatch g = g s ∨ s.whenMatch g = s :=
  ite_eq_or_eq ..

theorem State.whenMismatch_cases (s : State) (g : State → State) :
    s.whenMismatch g = g s ∨ s.whenMismatch g = s :=
  ite_eq_or_eq ..

theorem State.whenFull_withWires (s : State) (g : State → Wires) :
    ∃ x, (s.whenFull fun u => u.withWires (g u)) = s.withWires x := by
  rcases s.whenFull_cases fun u => u.withWires (g u) with e | e
  · exact ⟨g s, e⟩
  · exact ⟨s.wires, e⟩

theorem State.whenMatch_withWires (s : State) (g : State → Wires) :
    ∃ x, (s.whenMatch fun u => u.withWires (g u)) = s.withWires x := by
  rcases s.whenMatch_cases fun u => u.withWires (g u) with e | e
  · exact ⟨g s, e⟩
  · exact ⟨s.wires, e⟩

/-- The mismatch that SYNC_CHECK may raise has no effect of its own (R141). -/
theorem syncCheckOp_withWires (s : State) : ∃ x, syncCheckOp s = s.withWires x := by
  unfold syncCheckOp
  simp only [State.raiseError_eq, ite_self]
  exact s.whenFull_withWires _

/-- The sub-operations that only compute write the wires and nothing else (R26, R28). -/
theorem exec_computing (s : State) {b : Bit} {ts : Nat} {i : Instr} (hi : i ∈ computingOps b ts) :
    ∃ x, exec i s = .next (s.withWires x) := by
  simp only [computingOps, List.mem_cons, List.not_mem_nil, or_false] at hi
  obtain rfl | rfl | rfl | rfl | rfl | rfl | rfl | rfl | rfl | rfl | rfl | rfl | rfl := hi
  · exact ⟨_, rfl⟩
  · exact ⟨_, rfl⟩
  · exact (s.whenFull_withWires _).imp fun _ e => congrArg Host.Outcome.next e
  · exact (syncCheckOp_withWires s).imp fun _ e => congrArg Host.Outcome.next e
  all_goals exact (s.whenMatch_withWires _).imp fun _ e => congrArg Host.Outcome.next e

/-- Settles O23: `exec_computing`, whose next state names every register. -/
theorem computingSubOperationsWriteNoRegister : Obligations.ComputingSubOperationsWriteNoRegister :=
  fun s _ _ _ hi => exec_computing s hi

theorem exec_computing_effect (s : State) (b : Bit) (ts : Nat) {i : Instr} (hi : i ∈ computingOps b ts) :
    ∃ t, exec i s = .next t ∧ Effect s i t := by
  obtain ⟨x, e⟩ := exec_computing s hi
  exact ⟨_, e, .computes b ts x hi⟩

theorem exec_submit_effect (b : Bit) (ts : Nat) (s : State) :
    ∃ t, exec (.submit b ts) s = .next t ∧ Effect s (.submit b ts) t := by
  rcases execSubmit_cases b ts s with ⟨hcnt, hsync, e⟩ | ⟨h, e⟩
  · exact ⟨_, e, .submitEmits b ts hcnt hsync⟩
  · exact ⟨_, e, .submitKeeps b ts h⟩

theorem exec_fullTest_effect (s : State) : ∃ t, exec .fullTest s = .next t ∧ Effect s .fullTest t := by
  refine ⟨_, rfl, ?_⟩
  unfold fullTestOp
  cases hfull : isFull s.wires.c1 with
  | true => exact .fullTestGoesOn _ hfull
  | false => exact .fullTestEnds _ hfull

theorem exec_emit_effect (s : State) : ∃ t, exec .emit s = .next t ∧ Effect s .emit t := by
  rcases s.whenMatch_cases fun u => u.present u.wires.toPayload with e | e
  · exact ⟨_, congrArg Host.Outcome.next e, .emit⟩
  · exact ⟨_, congrArg Host.Outcome.next e, .unperformed (by decide)⟩

theorem exec_clear_effect (s : State) : ∃ t, exec .clear s = .next t ∧ Effect s .clear t := by
  rcases s.whenMatch_cases fun u => u.writeWindow 0#80 0 with e | e
  · exact ⟨_, congrArg Host.Outcome.next e, .clear⟩
  · exact ⟨_, congrArg Host.Outcome.next e, .unperformed (by decide)⟩

theorem exec_retain_effect (s : State) : ∃ t, exec .retain s = .next t ∧ Effect s .retain t := by
  rcases s.whenMismatch_cases fun u => (u.writeWindow u.wires.w1 fullCount).dropValid with e | e
  · exact ⟨_, congrArg Host.Outcome.next e, .retain⟩
  · exact ⟨_, congrArg Host.Outcome.next e, .unperformed (by decide)⟩

/-- Every instruction goes on, with one of the effects listed. -/
theorem exec_effect (i : Instr) (s : State) : ∃ t, exec i s = .next t ∧ Effect s i t := by
  cases i with
  | reset => exact ⟨_, rfl, .reset⟩
  | idle => exact ⟨_, rfl, .idle⟩
  | submit b ts => exact exec_submit_effect b ts s
  | ltcFrame x ts => exact ⟨_, execLtcFrame_eq x ts s, .ltcFrame x ts⟩
  | noSync f => exact ⟨_, execNoSync_eq f s, .noSync f⟩
  | fullTest => exact exec_fullTest_effect s
  | emit => exact exec_emit_effect s
  | clear => exact exec_clear_effect s
  | retain => exact exec_retain_effect s
  | shiftIn b => exact exec_computing_effect s b 0 (by simp [computingOps])
  | timestamp ts => exact exec_computing_effect s false ts (by simp [computingOps])
  | _ => exact exec_computing_effect s false 0 (by simp [computingOps])

/-- An instruction has no effect but those listed. -/
theorem effect_of_exec {i : Instr} {s t : State} (h : exec i s = .next t) : Effect s i t := by
  obtain ⟨u, hu, heffect⟩ := exec_effect i s
  exact Host.Outcome.next.inj (hu.symm.trans h) ▸ heffect

/-- No instruction writes the parameters (R27) or the caller's samples. -/
theorem Effect.cfg_inputs {i : Instr} {s t : State} (h : Effect s i t) : t.cfg = s.cfg ∧ t.inputs = s.inputs := by
  cases h <;> exact ⟨rfl, rfl⟩

/-- Settles O36: a step performs an instruction on the state without its first sample. -/
theorem stepKeepsParametersAndTakesOneSample : Obligations.StepKeepsParametersAndTakesOneSample :=
  fun s _ h => (effect_of_exec (s := s.afterSample) h).cfg_inputs

/-- Settles O57: what writes the payload is RESET, or presents it. -/
theorem payloadHeldUntilNextEventOrReset : Obligations.PayloadHeldUntilNextEventOrReset := by
  intro i s t h hreset hvalid
  cases effect_of_exec h with
  | reset => exact absurd rfl hreset
  | submitEmits | ltcFrame | emit => exact absurd hvalid.symm Bool.false_ne_true
  | _ => rfl

/-- Settles O58: every effect on `W` or `CNT` belongs to one of the operations listed. -/
theorem windowWrittenOnlyByTheStatedOperations : Obligations.WindowWrittenOnlyByTheStatedOperations := by
  intro i s t h
  have heffect := effect_of_exec h
  obtain ⟨hcfg, hinputs⟩ := heffect.cfg_inputs
  refine ⟨hcfg, hinputs, fun hreset hsubmit hltc hnosync hfull hclear hretain => ?_⟩
  cases heffect with
  | idle | computes | emit | unperformed => exact ⟨rfl, rfl⟩
  | reset => exact absurd rfl hreset
  | submitEmits b ts | submitKeeps b ts => exact absurd rfl (hsubmit b ts)
  | ltcFrame x ts => exact absurd rfl (hltc x ts)
  | noSync f => exact absurd rfl (hnosync f)
  | fullTestGoesOn | fullTestEnds => exact absurd rfl hfull
  | clear => exact absurd rfl hclear
  | retain => exact absurd rfl hretain

end Sys2Proof.Machine
end

section
/-! PROOFS of family 20_memory: the frame bits some rule reads (R47, R48), and the end timestamps of a run
(R50, R55). -/

namespace Sys2Proof.Machine

/-! ### The read bits of a frame word -/

/-- Masking a field with two masks side by side masks its upper and its lower part. -/
theorem extractLsb'_and_append {n w v : Nat} (f : BitVec n) (start : Nat) (m : BitVec w) (k : BitVec v) :
    f.extractLsb' start (w + v) &&& (m ++ k) =
      (f.extractLsb' (start + v) w &&& m) ++ (f.extractLsb' start v &&& k) := by
  rw [← BitVec.extractLsb'_append_extractLsb'_eq_extractLsb' rfl, BitVec.and_append]

/-- One bit of a word, as the field of width one that the encoder writes. -/
theorem extractLsb'_one {n : Nat} (f : BitVec n) (k : Nat) : f.extractLsb' k 1 = BitVec.ofBool (f.getLsbD k) := by
  ext i hi
  obtain rfl : i = 0 := by omega
  simp

/-- The read bits of a frame word, with the mask drawn as R63 draws the word: the fields the decoder takes stay under
ones, each gap becomes 0. -/
theorem and_readMask {f : FrameWord} (hsync : f.extractLsb' 64 16 = syncWord) :
    f &&& readMask = encodeFrame (fieldsOf f) := by
  have hmask : readMask = BitVec.allOnes 16 ++ 0#6 ++ BitVec.allOnes 2 ++ 0#4 ++ BitVec.allOnes 4 ++ 0#5 ++
      BitVec.allOnes 3 ++ 0#4 ++ BitVec.allOnes 4 ++ 0#5 ++ BitVec.allOnes 3 ++ 0#4 ++ BitVec.allOnes 4 ++ 0#4 ++
      BitVec.allOnes 1 ++ BitVec.allOnes 1 ++ BitVec.allOnes 2 ++ 0#4 ++ BitVec.allOnes 4 := by decide
  -- The width 80 of `f` has to become the sum of the field widths, which a `rw` of the mask does not do.
  have hsplit := (extractLsb'_and_append f 0 _ _).symm.trans (congrArg₂ _ BitVec.extractLsb'_eq_self hmask.symm)
  refine hsplit.symm.trans ?_
  simp only [extractLsb'_and_append, BitVec.and_allOnes, BitVec.and_zero]
  simp only [Nat.zero_add, Nat.reduceAdd, hsync, extractLsb'_one]
  rfl

/-- R64 as the comparison of the sync field. -/
theorem sync_of_isLtcFrame {f : FrameWord} (h : isLtcFrame f = true) : f.extractLsb' 64 16 = syncWord := by
  rw [isLtcFrame_eq_syncMatches] at h
  exact beq_iff_eq.mp h

theorem decode_frame_of_isLtcFrame {f : FrameWord} (h : isLtcFrame f = true) (ts : Nat) :
    decode (.frame f ts) = .ltcFrame (fieldsOf f) ts := if_pos h

theorem decode_frame_of_not_isLtcFrame {f : FrameWord} (h : isLtcFrame f = false) (ts : Nat) :
    decode (.frame f ts) = .noSync f := if_neg (by simp [h])

/-- What the encoder writes for the fields of an LTC_FRAME word (R47, log entry 10). -/
theorem encodeFrame_fieldsOf {f : FrameWord} (h : isLtcFrame f = true) : encodeFrame (fieldsOf f) = f &&& readMask :=
  (and_readMask (sync_of_isLtcFrame h)).symm

/-- The sync field is among the bits read (R47). -/
theorem isLtcFrame_and_readMask (f : FrameWord) : isLtcFrame (f &&& readMask) = isLtcFrame f := by
  have hmask : readMask &&& ltcMask = ltcMask := by decide
  unfold isLtcFrame
  rw [BitVec.and_assoc, hmask]

/-- Settles O28: the encoder writes the fields the decoder took, and a NO_SYNC instruction holds the whole word. -/
theorem encodingADecodedFrameKeepsItsReadBits : Obligations.EncodingADecodedFrameKeepsItsReadBits := by
  intro f ts
  constructor
  · intro h
    rw [decode_frame_of_isLtcFrame h, encode, encodeFrame_fieldsOf h]
  · intro h
    rw [decode_frame_of_not_isLtcFrame h, encode]

/-- An LTC_FRAME word acts by its read bits alone (R48, R108). -/
theorem exec_decode_ltcFrame {f : FrameWord} (h : isLtcFrame f = true) (ts : Nat) (s : State) :
    exec (decode (.frame f ts)) s = .next (s.emitting (decodedPayload s.cfg (f &&& readMask) ts)) := by
  rw [decode_frame_of_isLtcFrame h, ← encodeFrame_fieldsOf h]
  exact execLtcFrame_eq (fieldsOf f) ts s

/-- Settles O29: the sync field is read too, so the other word is an LTC_FRAME word as well, and both act by the read
bits they share. -/
theorem unreadBitsNeverMatter : Obligations.UnreadBitsNeverMatter := by
  intro f g ts s hf hread
  have hg : isLtcFrame g = true := by rw [← isLtcFrame_and_readMask, ← hread, isLtcFrame_and_readMask, hf]
  rw [exec_decode_ltcFrame hf, exec_decode_ltcFrame hg, hread]

/-! ### The end timestamps of a run -/

theorem samplesOf_cons_of_idle {p : Pins} (h : p.bitValid = false) (l : List Pins) :
    samplesOf (p :: l) = samplesOf l := by simp [samplesOf, h]

theorem samplesOf_cons_of_valid {p : Pins} (h : p.bitValid = true) (l : List Pins) :
    samplesOf (p :: l) = (p.bitValue, p.bitTs) :: samplesOf l := by simp [samplesOf, h]

/-- A SUBMIT gives no event, or one that ends at its own timestamp (R118). -/
theorem execSubmit_event_endTs {b : Bit} {ts : Nat} {s t : State} (h : execSubmit b ts s = .next t) :
    t.event.toList.map Payload.endTs = [] ∨ t.event.toList.map Payload.endTs = [tsReg s.cfg ts] := by
  rcases execSubmit_cases b ts s with ⟨-, -, e⟩ | ⟨-, e⟩ <;> obtain rfl := Host.Outcome.next.inj (h.symm.trans e)
  · exact .inr rfl
  · exact .inl rfl

/-- The events of a run end at timestamps of its samples, in their order: an IDLE gives none, a SUBMIT at most one. -/
theorem endTs_events_sublist (l rest : List Pins) (s : State) (h : s.inputs = l ++ rest)
    (hr : ∀ p ∈ l, p.rst = false) :
    ((s.events l.length).map Payload.endTs).Sublist ((samplesOf l).map fun x => tsReg s.cfg x.2) := by
  induction l generalizing s with
  | nil => exact List.Sublist.refl _
  | cons p l ih =>
    obtain ⟨hp, hl⟩ := List.forall_mem_cons.mp hr
    have hstep := step_of_no_reset (l := l ++ rest) h hp
    obtain ⟨t, ht, -⟩ := step_cases s
    obtain ⟨hcfg, hinputs⟩ := stepKeepsParametersAndTakesOneSample s t ht
    have htail := ih t (by rw [hinputs, h]; rfl) hl
    rw [hcfg] at htail
    rw [List.length_cons, State.events_succ ht, List.map_append]
    cases hv : p.bitValid with
    | false =>
      rw [ht, hv, if_neg Bool.false_ne_true] at hstep
      obtain rfl := Host.Outcome.next.inj hstep
      rw [samplesOf_cons_of_idle hv]
      exact htail
    | true =>
      rw [ht, hv, if_pos rfl] at hstep
      rw [samplesOf_cons_of_valid hv, List.map_cons]
      have hts : tsReg s.cfg (tsReg s.cfg p.bitTs) = tsReg s.cfg p.bitTs := tsReg_of_lt (tsReg_lt _ _)
      rcases execSubmit_event_endTs hstep.symm with he | he <;> rw [he]
      · exact htail.cons _
      · rw [State.withInputs_cfg, hts]
        exact htail.cons_cons _

/-- Settles O55: the ends are a sublist of the samples' timestamps, which do not decrease. -/
theorem eventEndsFollowTheContract : Obligations.EventEndsFollowTheContract := by
  intro s l rest hinputs hreset ⟨hfits, hordered⟩
  have hends : ((samplesOf l).map fun x => tsReg s.cfg x.2) = (samplesOf l).map Prod.snd :=
    List.map_congr_left fun x hx => tsReg_of_lt (hfits x hx)
  have hsub := endTs_events_sublist l rest s hinputs hreset
  rw [hends] at hsub
  exact List.pairwise_map.mp ((List.pairwise_map.mpr hordered).sublist hsub)

end Sys2Proof.Machine
end

section
/-! PROOFS of family 30_encoding: decoding and encoding (R61 to R64, R70), what one step performs (R60, R66), and the
string an event presents (R68). -/

namespace Sys2Proof.Machine

/-! ### Frame words as numbers -/

/-- R64 read as a number: the top sixteen bits are the sync word. -/
theorem isLtcFrame_iff (f : FrameWord) : isLtcFrame f = true ↔ f.toNat / 2 ^ 64 = 0xBFFC := by
  rw [isLtcFrame_eq_syncMatches, syncMatches_iff]

/-- One bit of a frame word is its slice of width one (R9). -/
theorem toNat_getLsbD (f : FrameWord) (k : Nat) : (f.getLsbD k).toNat = slice f.toNat k 1 :=
  Nat.toNat_testBit f.toNat k

theorem getLsbD_eq_iff (f : FrameWord) (k : Nat) (b : Bit) : f.getLsbD k = b ↔ slice f.toNat k 1 = b.toNat := by
  have htoNat : ∀ a b : Bit, a = b ↔ a.toNat = b.toNat := by decide
  rw [← toNat_getLsbD, ← htoNat]

/-- A word is well formed as a NO_SYNC operand exactly when it does not decode to LTC_FRAME (R64). -/
theorem lacksSync_eq_not_isLtcFrame (f : FrameWord) : lacksSync f = !isLtcFrame f := by
  rw [isLtcFrame_eq_syncMatches]
  rfl

theorem isLtcFrame_encodeFrame (x : FrameFields) : isLtcFrame (encodeFrame x) = true := by
  have hdf := x.dropFrame.toNat_lt
  have hcf := x.colorFrame.toNat_lt
  rw [isLtcFrame_iff, toNat_encodeFrame]
  omega

/-- The fields lie side by side without overlapping (R63), so each slice of the sum is one of its terms. -/
theorem fieldsOf_encodeFrame (x : FrameFields) : fieldsOf (encodeFrame x) = x := by
  have hfield (off w : Nat) := toNat_memRead (encodeFrame x) off w
  have hflag := getLsbD_eq_iff (encodeFrame x)
  simp only [toNat_encodeFrame, memRead, slice] at hfield hflag
  obtain ⟨fu, ft, df, cf, su, st, mu, mt, hu, ht⟩ := x
  have hdf := df.toNat_lt
  have hcf := cf.toNat_lt
  simp only [fieldsOf, FrameFields.mk.injEq, ← BitVec.toNat_inj, hfield, hflag]
  omega

/-! ### Decode and encode -/

theorem decode_encodeFrame (x : FrameFields) (ts : Nat) : decode (.frame (encodeFrame x) ts) = .ltcFrame x ts := by
  rw [decode_frame_of_isLtcFrame (isLtcFrame_encodeFrame x), fieldsOf_encodeFrame]

/-- The word of an instruction decodes to the instruction it spells: for the rows of the sub-operations, which carry
SUBMIT's word, a SUBMIT (log entry 8). -/
theorem decode_encode {c : Config} {i : Instr} (h : wellFormed c i = true) : decode (encode i) = spelledBy i := by
  cases i with
  | reset | idle => rfl
  | ltcFrame x ts => exact decode_encodeFrame x ts
  | noSync f =>
    rw [wellFormed, lacksSync_eq_not_isLtcFrame, Bool.not_eq_true'] at h
    exact decode_frame_of_not_isLtcFrame h 0
  | _ => exact decodeCommand_submitWord _ _

/-- An instruction that is no sub-operation spells itself. -/
theorem spelledBy_of_not_subOperation {i : Instr} (h : ∀ b ts, i ∉ subOperations b ts) : spelledBy i = i := by
  cases i with
  | reset | idle | submit | ltcFrame | noSync => rfl
  | shiftIn b => exact absurd (List.mem_cons_self ..) (h b 0)
  | timestamp ts => exact absurd (by simp [subOperations, partsAfterValidate]) (h false ts)
  | _ => exact absurd (by decide) (h false 0)

/-- Settles O27: `decode_encode`, and what is no sub-operation spells itself. -/
theorem decodingAnEncodingGivesWhatItsWordSpells : Obligations.DecodingAnEncodingGivesWhatItsWordSpells := by
  intro c i hwf
  have hspelled := decode_encode hwf
  exact ⟨fun hwhole => hspelled.trans (spelledBy_of_not_subOperation hwhole), hspelled⟩

/-- Settles O25: the comparison of R64 is that of the top sixteen bits, and each field is a slice of the word. -/
theorem frameWordsDecodeByTheSyncFieldAlone : Obligations.FrameWordsDecodeByTheSyncFieldAlone := by
  intro f ts
  constructor
  · intro hsync
    exact ⟨_, decode_frame_of_isLtcFrame ((isLtcFrame_iff f).mpr hsync) ts, toNat_memRead .., toNat_memRead ..,
      toNat_memRead .., toNat_memRead .., toNat_memRead .., toNat_memRead .., toNat_memRead .., toNat_memRead ..,
      toNat_getLsbD .., toNat_getLsbD ..⟩
  · intro hsync
    exact decode_frame_of_not_isLtcFrame (Bool.eq_false_of_not_eq_true (mt (isLtcFrame_iff f).mp hsync)) ts

/-- A field put above the bits of a number: nothing overlaps, so `or` adds. -/
theorem or_shiftLeft_of_lt {i b : Nat} (h : b < 2 ^ i) (a : Nat) : b ||| a <<< i = b + a * 2 ^ i := by
  rw [Nat.or_comm, ← Nat.shiftLeft_add_eq_or_of_lt h, Nat.shiftLeft_eq, Nat.add_comm]

/-- The fields whose word the test encoder writes (R70). -/
def encFields (hh mm ss ff : Nat) (df cf : Bit) : FrameFields where
  framesUnits := BitVec.ofNat 4 (ff % 10)
  framesTens := BitVec.ofNat 2 (ff / 10)
  dropFrame := df
  colorFrame := cf
  secondsUnits := BitVec.ofNat 4 (ss % 10)
  secondsTens := BitVec.ofNat 3 (ss / 10)
  minutesUnits := BitVec.ofNat 4 (mm % 10)
  minutesTens := BitVec.ofNat 3 (mm / 10)
  hoursUnits := BitVec.ofNat 4 (hh % 10)
  hoursTens := BitVec.ofNat 2 (hh / 10)

/-- The test encoder writes a frame word of R63, as long as each tens digit fits its sub-field. -/
theorem enc_eq_encodeFrame {hh mm ss ff : Nat} (df cf : Bit) (hhh : hh / 10 ≤ 3) (hmm : mm / 10 ≤ 7)
    (hss : ss / 10 ≤ 7) (hff : ff / 10 ≤ 3) : enc hh mm ss ff df cf = encodeFrame (encFields hh mm ss ff df cf) := by
  have hdf := df.toNat_lt
  have hcf := cf.toNat_lt
  apply BitVec.eq_of_toNat_eq
  rw [toNat_encodeFrame]
  unfold enc encFields
  simp (disch := omega) only [or_shiftLeft_of_lt]
  simp only [BitVec.toNat_ofNat]
  omega

/-- Settles O30: the word decodes to the fields it was written from. -/
theorem testEncoderReturnsItsValues : Obligations.TestEncoderReturnsItsValues := by
  intro hh mm ss ff ts df cf hhh hmm hss hff
  refine ⟨encFields hh mm ss ff df cf, ?_⟩
  rw [enc_eq_encodeFrame df cf hhh hmm hss hff]
  refine ⟨decode_encodeFrame _ ts, ?_⟩
  simp only [encFields, BitVec.toNat_ofNat, and_true]
  omega

/-- Settles O24: the decoder tests the masks in the order of the rows; the rows cover the eight words. -/
theorem commandWordsDecodeAsTabled : Obligations.CommandWordsDecodeAsTabled := by
  intro cmd ts
  have hrst : ∀ c : CommandWord, c &&& 0b110#3 = 0b000#3 ∨ c &&& 0b110#3 = 0b010#3 → c &&& 0b100#3 ≠ 0b100#3 := by
    decide
  refine ⟨fun hreset => if_pos hreset, fun hidle => ?_, fun hsubmit => ?_, ?_⟩
  · exact (if_neg (hrst cmd (.inl hidle))).trans (if_pos hidle)
  · have hvalid : ¬ cmd &&& 0b110#3 = 0b000#3 := by rw [hsubmit]; decide
    exact (if_neg (hrst cmd (.inr hsubmit))).trans (if_neg hvalid)
  · revert cmd
    decide

/-- Settles O26: the eight words computed. -/
theorem spelledOutWordsDecode : Obligations.SpelledOutWordsDecode := by
  unfold Obligations.SpelledOutWordsDecode
  decide

/-! ### SUBMIT and its parts -/

/-- Settles O21: each condition of R62 is the guard the operation stands under. -/
theorem unperformedSubOperationsChangeNothing : Obligations.UnperformedSubOperationsChangeNothing := by
  intro s ts
  refine ⟨fun hfull i hi => ?_, fun hmatch => ?_, fun hguard i hi => ?_⟩
  · simp only [List.mem_cons, List.not_mem_nil, or_false] at hi
    obtain rfl | rfl | rfl := hi
    · exact congrArg Host.Outcome.next (State.whenFull_of_not_full hfull _)
    · exact congrArg Host.Outcome.next (State.whenFull_of_not_full hfull _)
    · exact congrArg Host.Outcome.next (State.whenMismatch_of_not_full hfull _)
  · exact congrArg Host.Outcome.next (State.whenMismatch_of_match hmatch _)
  · have hskip (g : State → State) : s.whenMatch g = s := if_neg (by rw [hguard]; exact Bool.false_ne_true)
    simp only [List.mem_cons, List.not_mem_nil, or_false] at hi
    obtain rfl | rfl | rfl | rfl | rfl | rfl | rfl | rfl | rfl | rfl | rfl := hi <;>
      exact congrArg Host.Outcome.next (hskip _)

/-- Settles O22: the meaning of SUBMIT is written as this chain. -/
theorem submitIsItsSubOperationsInOrder : Obligations.SubmitIsItsSubOperationsInOrder :=
  fun s b ts => ⟨submitOps b ts s.settle, rfl, rfl⟩

/-! ### One step -/

/-- Settles O31: the pins are the head of the caller's samples, and IDLE's when there is none. -/
theorem stepRunsTheDecodedCommand : Obligations.StepRunsTheDecodedCommand := by
  rintro ⟨cfg, w, cnt, v, payload, wires, inputs⟩
  constructor
  · rintro p rest rfl
    rfl
  · rintro rfl
    obtain ⟨-, hidle, -⟩ := commandWordsDecodeAsTabled Pins.idle.cmd (tsReg cfg Pins.idle.bitTs)
    exact congrArg (exec · _) (hidle (by decide))

/-- Settles O35: `exec_effect`, and a step is an instruction performed. -/
theorem nothingEverStops : Obligations.NothingEverStops := by
  have hexec (i : Instr) (s : State) : ∃ t, exec i s = .next t := (exec_effect i s).imp fun _ h => h.1
  exact ⟨hexec, fun s => hexec _ _⟩

/-- Settles O32: a command word selects RESET, IDLE or a SUBMIT whose timestamp the pins carried (R60, R61). -/
theorem fetchedInstructionIsWellFormed : Obligations.FetchedInstructionIsWellFormed := by
  intro s
  rw [State.fetch, decode]
  rcases decodeCommand_cases s.pins.cmd (tsReg s.cfg s.pins.bitTs) with hd | hd | ⟨b, hd⟩ <;> rw [hd]
  · rfl
  · rfl
  · exact decide_eq_true (tsReg_lt _ _)

/-- The shift-in of R82 in number arithmetic: halving moves every bit one place down. -/
theorem windowAfter_eq_shiftedIn (w : FrameWord) (b : Bit) : windowAfter w b = shiftedIn w b := by
  have hw := w.isLt
  have hb := b.toNat_lt
  apply BitVec.eq_of_toNat_eq
  rw [windowAfter, shiftedIn, toNat_append_eq, BitVec.toNat_ofNat, BitVec.extractLsb'_toNat,
    Nat.shiftRight_eq_div_pow, BitVec.toNat_ofBool]
  omega

/-- The event of a frame word is made of its fields alone (R48). -/
theorem decodedPayload_congr {f g : FrameWord} (h : fieldsOf f = fieldsOf g) (c : Config) (ts : Nat) :
    decodedPayload c f ts = decodedPayload c g ts := by
  simp only [fieldsOf, FrameFields.mk.injEq] at h
  obtain ⟨hfu, hft, hdf, hcf, hsu, hst, hmu, hmt, hhu, hht⟩ := h
  simp only [decodedPayload, memRead, dropFrameFlag, colorFrameFlag, extractLsb'_one_beq, hfu, hft, hdf, hcf, hsu, hst,
    hmu, hmt, hhu, hht]

/-- What a frame word in the full window does: it emits and clears, or it stays (R64, R93, R94). -/
theorem exec_decode_frame (f : FrameWord) (ts : Nat) (s : State) :
    exec (decode (.frame f ts)) s =
      .next (if isLtcFrame f then s.emitting (decodedPayload s.cfg f ts) else s.keeping f fullCount) := by
  cases h : isLtcFrame f with
  | true =>
    have hfields : fieldsOf (encodeFrame (fieldsOf f)) = fieldsOf f := fieldsOf_encodeFrame _
    rw [decode_frame_of_isLtcFrame h, if_pos rfl, ← decodedPayload_congr hfields]
    exact execLtcFrame_eq _ ts s
  | false =>
    rw [decode_frame_of_not_isLtcFrame h, if_neg Bool.false_ne_true]
    exact execNoSync_eq f s

/-- Settles O33: both are computed from the window after the shift-in, which is full. -/
theorem fullWindowSubmitRunsTheFrameWord : Obligations.FullWindowSubmitRunsTheFrameWord := by
  intro s b ts hcnt
  have hfull : isFull (countedUp s.cnt) = true := by rw [isFull_countedUp]; exact decide_eq_true hcnt
  rw [exec_decode_frame, windowAfter_eq_shiftedIn, isLtcFrame_eq_syncMatches, ← eq_fullCount_of_isFull hfull]
  exact (execSubmit_eq b ts s).trans (by rw [hfull, Bool.true_and])

/-- The window placed for a frame word becomes that word when its last bit is shifted in. -/
theorem windowAfter_shiftLeft (f : FrameWord) : windowAfter (f <<< 1) (f.getLsbD 79) = f := by
  rw [windowAfter_eq_shiftedIn]
  apply BitVec.eq_of_getLsbD_eq
  intro i hi
  rw [getLsbD_shiftedIn]
  split_ifs with h79
  · rw [h79]
  · rw [BitVec.getLsbD_shiftLeft, decide_eq_true (by omega : i + 1 < 80)]
    simp

theorem step_of_submit {s : State} {b : Bit} {ts : Nat} {l : List Pins} (h : s.inputs = Pins.submit b ts :: l) :
    step s = exec (.submit b (tsReg s.cfg ts)) (s.withInputs l) :=
  step_of_no_reset h rfl

/-- A command word put on the pins is the command word read off them (R60). -/
theorem cmd_ofCommand (cmd : CommandWord) (ts : Nat) : (Pins.ofCommand cmd ts).cmd = cmd := by
  have h : ∀ c : CommandWord,
      BitVec.ofBool (c.getLsbD 2) ++ BitVec.ofBool (c.getLsbD 1) ++ BitVec.ofBool (c.getLsbD 0) = c := by decide
  exact h cmd

theorem tsReg_zero (c : Config) : tsReg c 0 = 0 := Nat.zero_mod _

/-- A frame word in the full window acts the same whatever stood there before. -/
theorem exec_decode_frame_writeWindow (f : FrameWord) (ts : Nat) (s : State) (w : FrameWord) (c : Fin 81) :
    exec (decode (.frame f ts)) (s.writeWindow w c) = exec (decode (.frame f ts)) s := by
  rw [exec_decode_frame, exec_decode_frame]
  split_ifs <;> rfl

/-- With a frame word placed one place up, the SUBMIT of its bit 79 fills the window with it. -/
theorem step_of_placed_frame (s : State) (f : FrameWord) (l : List Pins) :
    step ((s.withInputs (Pins.submit (f.getLsbD 79) 0 :: l)).writeWindow (f <<< 1) 79) =
      exec (decode (.frame f 0)) (s.withInputs l) := by
  calc step ((s.withInputs (Pins.submit (f.getLsbD 79) 0 :: l)).writeWindow (f <<< 1) 79)
    _ = exec (.submit (f.getLsbD 79) (tsReg s.cfg 0)) ((s.withInputs l).writeWindow (f <<< 1) 79) := step_of_submit rfl
    _ = exec (decode (.frame (windowAfter (f <<< 1) (f.getLsbD 79)) 0)) ((s.withInputs l).writeWindow (f <<< 1) 79) := by
      rw [tsReg_zero]
      exact fullWindowSubmitRunsTheFrameWord _ _ 0 (Nat.le_refl 79)
    _ = exec (decode (.frame f 0)) (s.withInputs l) := by
      rw [windowAfter_shiftLeft, exec_decode_frame_writeWindow]

/-- A command word put on the pins is the one decoded. -/
theorem step_of_placed_command (s : State) (cmd : CommandWord) (l : List Pins) :
    step (s.withInputs (Pins.ofCommand cmd 0 :: l)) = exec (decode (.command cmd 0)) (s.withInputs l) := by
  calc step (s.withInputs (Pins.ofCommand cmd 0 :: l))
    _ = exec (decode (.command (Pins.ofCommand cmd 0).cmd (tsReg s.cfg 0))) (s.withInputs l) := rfl
    _ = exec (decode (.command cmd 0)) (s.withInputs l) := by rw [cmd_ofCommand, tsReg_zero]

/-- Settles O34: `withFetchWord` places a word of either length as these lemmas ask. -/
theorem placedWordIsRunByTheNextStep : Obligations.PlacedWordIsRunByTheNextStep :=
  fun s w => ⟨step_of_placed_frame s (BitVec.ofNat 80 w) s.inputs.tail,
    step_of_placed_command s (BitVec.ofNat 3 w) s.inputs.tail⟩

/-- Settles O53: a SUBMIT that emits writes the two timestamps of the event, and the rest of either end is the same for
both operands. -/
theorem timestampReachesOnlyTheEvent : Obligations.TimestampReachesOnlyTheEvent := by
  intro s t b ts ts' h
  obtain rfl := Host.Outcome.next.inj (h.symm.trans (execSubmit_eq b ts s))
  by_cases hemit : (isFull (countedUp s.cnt) && syncMatches (shiftedIn s.w b)) = true
  · refine ⟨startTimestamp s.cfg ts', endTimestamp s.cfg ts', (execSubmit_eq b ts' s).trans ?_, ?_⟩
    · rw [if_pos hemit, if_pos hemit]
      rfl
    · rw [if_pos hemit]
      exact fun hsilent => absurd hsilent.symm Bool.false_ne_true
  · refine ⟨s.payload.startTs, s.payload.endTs, (execSubmit_eq b ts' s).trans ?_, ?_⟩
    · rw [if_neg hemit, if_neg hemit]
      rfl
    · rw [if_neg hemit]
      exact fun _ => ⟨rfl, rfl⟩

/-! ### The string of an event -/

theorem packChars_append (l : List Char8) (c : Char8) : packChars (l ++ [c]) = packChars l <<< 8 ||| c.setWidth 88 :=
  List.foldl_append

theorem ofNat_shiftLeft_or (n : Nat) (c : Char8) :
    BitVec.ofNat 88 n <<< 8 ||| c.setWidth 88 = BitVec.ofNat 88 (n * 256 + c.toNat) := by
  have hshift : BitVec.ofNat 88 n <<< 8 = BitVec.ofNat 88 (n <<< 8) := by
    apply BitVec.eq_of_toNat_eq
    simp only [BitVec.toNat_shiftLeft, BitVec.toNat_ofNat, Nat.shiftLeft_eq]
    omega
  rw [hshift, ← BitVec.ofNat_toNat, ← BitVec.ofNat_or, ← Nat.shiftLeft_add_eq_or_of_lt c.isLt, Nat.shiftLeft_eq]

/-- Characters side by side are the digits of a number in base 256 (R43). -/
theorem packChars_eq_ofNat (l : List Char8) :
    packChars l = BitVec.ofNat 88 (l.foldl (fun n c => n * 256 + c.toNat) 0) := by
  induction l using List.reverseRecOn with
  | nil => rfl
  | append_singleton l c ih => rw [packChars_append, ih, ofNat_shiftLeft_or, List.foldl_append]; rfl

/-- The character packed last stands in the lowest byte. -/
theorem extractLsb'_zero_push (v : BitVec 88) (c : Char8) : (v <<< 8 ||| c.setWidth 88).extractLsb' 0 8 = c := by
  apply BitVec.eq_of_getLsbD_eq
  intro i hi
  simp [hi, show i < 88 by omega]

/-- Each character before it moves one byte up. -/
theorem extractLsb'_add_push (v : BitVec 88) (c : Char8) {p : Nat} (hp : p + 16 ≤ 88) :
    (v <<< 8 ||| c.setWidth 88).extractLsb' (p + 8) 8 = v.extractLsb' p 8 := by
  apply BitVec.eq_of_getLsbD_eq
  intro i hi
  have hin : p + 8 + i < 88 := by omega
  have habove : ¬ p + 8 + i < 8 := by omega
  have hmoved : p + 8 + i - 8 = p + i := by omega
  rw [BitVec.getLsbD_extractLsb', BitVec.getLsbD_extractLsb', BitVec.getLsbD_or, BitVec.getLsbD_shiftLeft,
    BitVec.getLsbD_setWidth, BitVec.getLsbD_of_ge c _ (by omega), hmoved]
  simp [hin, hi, habove]

/-- Character `k` of up to eleven, counted from the left end of those packed. -/
theorem extractLsb'_packChars {l : List Char8} (hl : l.length ≤ 11) {k : Nat} (hk : k < l.length) :
    (packChars l).extractLsb' (8 * (l.length - 1 - k)) 8 = l[k] := by
  induction l using List.reverseRecOn with
  | nil => exact absurd hk (Nat.not_lt_zero k)
  | append_singleton l c ih =>
    rw [List.length_append, List.length_singleton] at hl hk
    rw [packChars_append, List.length_append, List.length_singleton]
    by_cases hlast : k = l.length
    · subst hlast
      rw [List.getElem_concat_length rfl, Nat.add_sub_cancel, Nat.sub_self]
      exact extractLsb'_zero_push _ c
    · have hk' : k < l.length := by omega
      have hplace : 8 * (l.length + 1 - 1 - k) = 8 * (l.length - 1 - k) + 8 := by omega
      rw [List.getElem_append_left hk', ← ih (by omega) hk', hplace]
      exact extractLsb'_add_push _ c (by omega)

theorem charAt_packChars {l : List Char8} (hl : l.length = 11) {k : Nat} (hk : k < l.length) :
    charAt (packChars l) k = l[k] := by
  have hplace : 80 - 8 * k = 8 * (l.length - 1 - k) := by omega
  rw [charAt, hplace]
  exact extractLsb'_packChars hl.le hk

theorem toNat_digitChar {d : Nat} (h : d ≤ 9) : (digitChar d).toNat = 0x30 + d := by
  rw [digitChar, BitVec.toNat_ofNat]
  omega

theorem isDigitChar_digitChar {d : Nat} (h : d ≤ 9) : isDigitChar (digitChar d) = true := by
  rw [isDigitChar, Bool.and_eq_true, decide_eq_true_iff, decide_eq_true_iff, toNat_digitChar h]
  omega

theorem isDigitChar_dec2 {v : FieldValue} (h : v.toNat ≤ 99) :
    isDigitChar (dec2 v).1 = true ∧ isDigitChar (dec2 v).2 = true :=
  ⟨isDigitChar_digitChar (by omega), isDigitChar_digitChar (by omega)⟩

theorem charAt_timecodeString (hh mm ss ff : FieldValue) (df : Bit) {k : Nat} (hk : k < 11) :
    charAt (timecodeString hh mm ss ff df) k = (timecodeChars hh mm ss ff df)[k]'hk :=
  charAt_packChars rfl hk

theorem separatorChar_eq_semicolon_iff (df : Bit) : separatorChar df = 0x3B#8 ↔ df = true := by
  revert df
  decide

/-- The pattern of R68, for values of at most two decimal digits. -/
theorem isTimecodeString_timecodeString {hh mm ss ff : FieldValue} (df : Bit) (hhh : hh.toNat ≤ 99)
    (hmm : mm.toNat ≤ 99) (hss : ss.toNat ≤ 99) (hff : ff.toNat ≤ 99) :
    isTimecodeString (timecodeString hh mm ss ff df) = true := by
  have hsep : (separatorChar df == colonChar || separatorChar df == semicolonChar) = true := by cases df <;> rfl
  simp [isTimecodeString, charAt_timecodeString, timecodeChars, isDigitChar_dec2, hhh, hmm, hss, hff, hsep]

/-- The string as one number (R43, R115 to R117). -/
theorem timecodeString_eq_stringCode {hh mm ss ff : FieldValue} (df : Bit) (hhh : hh.toNat ≤ 99)
    (hmm : mm.toNat ≤ 99) (hss : ss.toNat ≤ 99) (hff : ff.toNat ≤ 99) :
    timecodeString hh mm ss ff df = BitVec.ofNat 88 (stringCode hh.toNat mm.toNat ss.toNat ff.toNat df) := by
  have hsep : (separatorChar df).toNat = if df then 0x3B else 0x3A := by cases df <;> rfl
  have hcolon : colonChar.toNat = 0x3A := rfl
  have htens {v : FieldValue} (h : v.toNat ≤ 99) : (digitChar (v.toNat / 10)).toNat = 0x30 + v.toNat / 10 :=
    toNat_digitChar (by omega)
  have hunits (v : FieldValue) : (digitChar (v.toNat % 10)).toNat = 0x30 + v.toNat % 10 := toNat_digitChar (by omega)
  rw [timecodeString, packChars_eq_ofNat]
  refine congrArg (BitVec.ofNat 88) ?_
  simp only [timecodeChars, dec2, List.foldl_cons, List.foldl_nil, stringCode, twoDigitCode, hsep, hcolon, htens, hunits,
    hhh, hmm, hss, hff]
  ring

/-- Settles O49: a step presents only events of the stated shape, whose values have two digits and whose string is
theirs. -/
theorem eventStringMatchesThePattern : Obligations.EventStringMatchesThePattern := by
  intro s t hstep hvalid
  rcases eq_of_step hstep with rfl | rfl | ⟨f, ts, rfl⟩ | ⟨b, rfl⟩
  · exact absurd hvalid Bool.false_ne_true
  · exact absurd hvalid Bool.false_ne_true
  · rw [State.emitting_payload]
    have hshape := eventShape_decodedPayload s.cfg f ts
    have hhh := hshape.hours_le.trans (by decide : 45 ≤ 99)
    have hmm := hshape.minutes_le.trans (by decide : 85 ≤ 99)
    have hss := hshape.seconds_le.trans (by decide : 85 ≤ 99)
    have hff := hshape.frames_le.trans (by decide : 45 ≤ 99)
    rw [hshape.string]
    refine ⟨isTimecodeString_timecodeString _ hhh hmm hss hff, timecodeString_eq_stringCode _ hhh hmm hss hff, ?_⟩
    rw [charAt_timecodeString _ _ _ _ _ (by decide)]
    exact separatorChar_eq_semicolon_iff _
  · exact absurd hvalid Bool.false_ne_true

end Sys2Proof.Machine
end

section
/-! PROOFS of family 40_bit_window: SUBMIT as the next-state function of R85, its first three sub-operations (R82 to
R84), RESET and IDLE (R80, R81), the count and the phase (R86), and the window over a run (R88). -/

namespace Sys2Proof.Machine

/-! ### The decoded event in number arithmetic -/

theorem Config.spanTicks_lt_of_wf {c : Config} (h : c.wf = true) : c.spanTicks < 2 ^ c.tsW := by
  rw [Config.wf, Bool.and_eq_true, decide_eq_true_iff] at h
  exact h.2

/-- The subtraction of R119 as R120 reads it: it wraps at most once. -/
theorem startTimestamp_eq_ite {c : Config} {ts : Nat} (hspan : c.spanTicks < 2 ^ c.tsW) (hts : ts < 2 ^ c.tsW) :
    startTimestamp c ts = if c.spanTicks ≤ ts then ts - c.spanTicks else ts + 2 ^ c.tsW - c.spanTicks := by
  split_ifs with h
  · exact startTimestamp_of_le hts h
  · exact startTimestamp_of_lt hspan (Nat.lt_of_not_le h)

/-- The flags side by side are the digits of a number in base 2 (R9, R130). -/
theorem packFlags_eq_ofNat (df hh mm ss ff bcd : Bool) :
    packFlags df hh mm ss ff bcd = BitVec.ofNat 6
      ((if bcd then 1 else 0) + (if ff then 2 else 0) + (if ss then 4 else 0) + (if mm then 8 else 0) +
        (if hh then 16 else 0) + (if df then 32 else 0)) := by
  revert df hh mm ss ff bcd
  decide

/-- The validator's flags as the number of R130. -/
theorem packFlags_eq_flagsCode (fps : FrameRate) (hu mu su fu : BitVec 4) (hh mm ss ff : FieldValue) (df : Bit) :
    packFlags (dropFrameOk fps df) (hoursOk hh) (sixtyOk mm) (sixtyOk ss) (framesOk fps ff) (bcdOk fu su mu hu) =
      BitVec.ofNat 6 (flagsCode (fpsValue fps) hu.toNat mu.toNat su.toNat fu.toNat hh.toNat mm.toNat ss.toNat
        ff.toNat df) := by
  rw [packFlags_eq_ofNat]
  simp only [flagsCode, dropFrameOk, hoursOk, sixtyOk, framesOk, bcdOk, Bool.and_eq_true, Bool.or_eq_true,
    Bool.not_eq_true', decide_eq_true_eq, beq_iff_eq, and_assoc]

theorem dropFrameFlag_eq (f : FrameWord) : dropFrameFlag f = (fieldsOf f).dropFrame := extractLsb'_one_beq f 10

theorem colorFrameFlag_eq (f : FrameWord) : colorFrameFlag f = (fieldsOf f).colorFrame := extractLsb'_one_beq f 11

/-- The four values of an event as numbers: no sum wraps (R65, R107). -/
theorem toNat_decodedPayload (c : Config) (f : FrameWord) (ts : Nat) :
    (decodedPayload c f ts).hh.toNat = (fieldsOf f).hoursUnits.toNat + 10 * (fieldsOf f).hoursTens.toNat ∧
      (decodedPayload c f ts).mm.toNat = (fieldsOf f).minutesUnits.toNat + 10 * (fieldsOf f).minutesTens.toNat ∧
      (decodedPayload c f ts).ss.toNat = (fieldsOf f).secondsUnits.toNat + 10 * (fieldsOf f).secondsTens.toNat ∧
      (decodedPayload c f ts).ff.toNat = (fieldsOf f).framesUnits.toNat + 10 * (fieldsOf f).framesTens.toNat :=
  ⟨toNat_assembleField _ _ (by decide) (by decide), toNat_assembleField _ _ (by decide) (by decide),
    toNat_assembleField _ _ (by decide) (by decide), toNat_assembleField _ _ (by decide) (by decide)⟩

theorem decodedPayload_str (c : Config) (f : FrameWord) (ts : Nat) :
    (decodedPayload c f ts).str = (eventOfFields c (fieldsOf f) ts).str := by
  have hshape := eventShape_decodedPayload c f ts
  obtain ⟨hhh, hmm, hss, hff⟩ := toNat_decodedPayload c f ts
  have hstr := timecodeString_eq_stringCode (fieldsOf f).dropFrame (hshape.hours_le.trans (by decide : 45 ≤ 99))
    (hshape.minutes_le.trans (by decide : 85 ≤ 99)) (hshape.seconds_le.trans (by decide : 85 ≤ 99))
    (hshape.frames_le.trans (by decide : 45 ≤ 99))
  rw [hhh, hmm, hss, hff, ← dropFrameFlag_eq] at hstr
  rw [eventOfFields, eventOfNumbers, ← dropFrameFlag_eq]
  exact hshape.string.trans hstr

theorem decodedPayload_val (c : Config) (f : FrameWord) (ts : Nat) :
    (decodedPayload c f ts).val = (eventOfFields c (fieldsOf f) ts).val := by
  obtain ⟨hhh, hmm, hss, hff⟩ := toNat_decodedPayload c f ts
  rw [eventOfFields, eventOfNumbers, ← dropFrameFlag_eq, ← hhh, ← hmm, ← hss, ← hff]
  exact packFlags_eq_flagsCode ..

/-- The event the chain computes is the one written from the numbers in the sub-fields (R65, R115 to R121, R130). -/
theorem decodedPayload_eq_eventOfFields {c : Config} {ts : Nat} (hwf : c.wf = true) (hts : ts < 2 ^ c.tsW)
    (f : FrameWord) : decodedPayload c f ts = eventOfFields c (fieldsOf f) ts := by
  have hstart := startTimestamp_eq_ite (Config.spanTicks_lt_of_wf hwf) hts
  have hvalue {v : FieldValue} {n : Nat} (h : v.toNat = n) : v = BitVec.ofNat 7 n := by
    rw [← h, BitVec.ofNat_toNat, BitVec.setWidth_eq]
  obtain ⟨hhh, hmm, hss, hff⟩ := toNat_decodedPayload c f ts
  exact (Payload.mk.injEq ..).mpr ⟨hstart, tsReg_of_lt hts, decodedPayload_str c f ts, hvalue hhh, hvalue hmm,
    hvalue hss, hvalue hff, dropFrameFlag_eq f, colorFrameFlag_eq f, decodedPayload_val c f ts⟩

theorem eventOfFields_fieldsOf (c : Config) (f : FrameWord) (ts : Nat) :
    eventOfFields c (fieldsOf f) ts = eventOfFrame c f ts := by
  have hflag (k : Nat) : f.getLsbD k = (slice f.toNat k 1 == 1) := by
    rw [← toNat_getLsbD]
    cases f.getLsbD k <;> rfl
  have hfield (off w : Nat) : (f.extractLsb' off w).toNat = slice f.toNat off w := toNat_memRead f off w
  simp only [eventOfFields, fieldsOf, eventOfFrame, hfield, hflag]

/-! ### SUBMIT as the rule of R85 -/

/-- The sync comparison as the slice of R91. -/
theorem syncMatches_iff_slice (f : FrameWord) : syncMatches f = true ↔ slice f.toNat 64 16 = 0xBFFC := by
  have hf := f.isLt
  rw [syncMatches_iff, slice]
  omega

theorem exec_submit_of_match {s : State} {b : Bit}
    (h : 79 ≤ s.cnt.val ∧ slice (windowAfter s.w b).toNat 64 16 = 0xBFFC) (ts : Nat) :
    exec (.submit b ts) s = .next (s.emitting (decodedPayload s.cfg (windowAfter s.w b) ts)) := by
  rw [← syncMatches_iff_slice, windowAfter_eq_shiftedIn] at h
  rw [windowAfter_eq_shiftedIn]
  rcases execSubmit_cases b ts s with ⟨-, -, e⟩ | ⟨hno, -⟩
  · exact e
  · exact absurd h hno

theorem exec_submit_of_no_match {s : State} {b : Bit}
    (h : ¬ (79 ≤ s.cnt.val ∧ slice (windowAfter s.w b).toNat 64 16 = 0xBFFC)) (ts : Nat) :
    exec (.submit b ts) s = .next (s.keeping (windowAfter s.w b) (countedUp s.cnt)) := by
  rw [← syncMatches_iff_slice, windowAfter_eq_shiftedIn] at h
  rw [windowAfter_eq_shiftedIn]
  rcases execSubmit_cases b ts s with ⟨hcnt, hsync, -⟩ | ⟨-, e⟩
  · exact absurd ⟨hcnt, hsync⟩ h
  · exact e

theorem submitRule_of_match {s : State} {b : Bit} (ts : Nat)
    (h : 79 ≤ s.cnt.val ∧ slice (windowAfter s.w b).toNat 64 16 = 0xBFFC) :
    submitRule b ts s = s.emitting (eventOfFrame s.cfg (windowAfter s.w b) ts) := by
  rw [submitRule, if_pos h, State.emitting, State.present, State.writeWindow, State.settle]

theorem submitRule_of_no_match {s : State} {b : Bit} (ts : Nat)
    (h : ¬ (79 ≤ s.cnt.val ∧ slice (windowAfter s.w b).toNat 64 16 = 0xBFFC)) :
    submitRule b ts s = s.keeping (windowAfter s.w b) (countedUp s.cnt) := by
  rw [submitRule, if_neg h, State.keeping, State.writeWindow, State.dropValid, State.settle]

/-- The chain of sub-operations answers what the rule of R85 says. -/
theorem exec_submit_eq_submitRule {s : State} {ts : Nat} (hwf : s.cfg.wf = true) (hts : ts < 2 ^ s.cfg.tsW) (b : Bit) :
    exec (.submit b ts) s = .next (submitRule b ts s) := by
  by_cases h : 79 ≤ s.cnt.val ∧ slice (windowAfter s.w b).toNat 64 16 = 0xBFFC
  · rw [exec_submit_of_match h, submitRule_of_match ts h, decodedPayload_eq_eventOfFields hwf hts,
      eventOfFields_fieldsOf]
  · rw [exec_submit_of_no_match h, submitRule_of_no_match ts h]

/-- Settles O4: the rule leaves the wires quiet, and is what the chain answers. -/
theorem submitComputesTheStatedNextState : Obligations.SubmitComputesTheStatedNextState :=
  fun s b ts hwf hts => ⟨(submitRule b ts s).wires, exec_submit_eq_submitRule hwf hts b⟩

/-! ### SHIFT_IN, COUNT and FULL_TEST -/

/-- Settles O9: `W1` is the shift-in of `W`. -/
theorem shiftInMovesEveryBitOnePlaceDown : Obligations.ShiftInMovesEveryBitOnePlaceDown := by
  intro s b
  refine ⟨shiftedIn s.w b, rfl, ?_, fun i hi => ?_⟩
  · rw [getLsbD_shiftedIn, if_pos rfl]
  · rw [getLsbD_shiftedIn, if_neg (by omega)]

/-- Settles O10: `C1` is `CNT` counted up. -/
theorem countSaturatesAtEighty : Obligations.CountSaturatesAtEighty :=
  fun s => ⟨countedUp s.cnt, rfl, countedUp_val s.cnt⟩

theorem isFull_iff (c : Fin 81) : isFull c = true ↔ c.val = 80 := by
  rw [isFull, beq_iff_eq, Fin.ext_iff]
  rfl

/-- Settles O11: the two branches of FULL_TEST, by the number in `C1`. -/
theorem fullTestContinuesOrEndsTheSubmit : Obligations.FullTestContinuesOrEndsTheSubmit := by
  intro s
  have hexec : exec .fullTest s = .next (fullTestOp s) := rfl
  rw [hexec, fullTestOp]
  refine ⟨fun hc1 => ?_, fun hc1 => ?_⟩
  · rw [(isFull_iff _).mpr hc1]
    rfl
  · rw [Bool.eq_false_of_not_eq_true (mt (isFull_iff _).mp hc1)]
    rfl

/-! ### RESET and IDLE -/

/-- Settles O2: RESET answers the cleared register file. -/
theorem resetClearsEveryRegister : Obligations.ResetClearsEveryRegister :=
  fun _ => ⟨Wires.quiet, rfl⟩

/-- Settles O3: IDLE drops the pulse and settles. -/
theorem idleEndsThePulseAndKeepsTheRest : Obligations.IdleEndsThePulseAndKeepsTheRest :=
  fun _ => ⟨Wires.quiet, rfl⟩

/-- SUBMIT reads neither the pulse nor the wires, which both ends of it write (R25, R28). -/
theorem exec_submit_dropValid_settle (b : Bit) (ts : Nat) (s : State) :
    exec (.submit b ts) s.dropValid.settle = exec (.submit b ts) s := by
  by_cases h : 79 ≤ s.cnt.val ∧ slice (windowAfter s.w b).toNat 64 16 = 0xBFFC
  · exact (exec_submit_of_match (s := s.dropValid.settle) h ts).trans (exec_submit_of_match h ts).symm
  · exact (exec_submit_of_no_match (s := s.dropValid.settle) h ts).trans (exec_submit_of_no_match h ts).symm

/-- Settles O54: `exec_submit_dropValid_settle`, on what IDLE answers. -/
theorem idleBeforeSubmitChangesNothing : Obligations.IdleBeforeSubmitChangesNothing := by
  intro s t b ts h
  obtain rfl := Host.Outcome.next.inj h
  exact exec_submit_dropValid_settle b ts s

/-! ### The count and the phase -/

theorem State.phase_of_full {s : State} (h : s.cnt.val = 80) : s.phase = .search := if_pos (Fin.ext h)

theorem State.phase_of_not_full {s : State} (h : s.cnt.val ≠ 80) : s.phase = .accumulating :=
  if_neg fun hc => h (congrArg Fin.val hc)

theorem cnt_keeping_of_le {s : State} (h : s.cnt.val ≤ 78) (w : FrameWord) :
    (s.keeping w (countedUp s.cnt)).cnt.val = s.cnt.val + 1 := by
  rw [State.keeping_cnt, countedUp_val]
  omega

theorem cnt_keeping_of_ge {s : State} (h : 79 ≤ s.cnt.val) (w : FrameWord) :
    (s.keeping w (countedUp s.cnt)).cnt.val = 80 := by
  rw [State.keeping_cnt, countedUp_val]
  omega

/-- Settles O39: the row of R86 that applies is chosen by the count and the sync field, and the phase follows from the
new count. -/
theorem countFollowsThePhaseTable : Obligations.CountFollowsThePhaseTable := by
  intro s b ts
  refine ⟨⟨_, rfl, rfl, State.phase_of_not_full (by simp)⟩, ⟨_, rfl, rfl, rfl⟩, fun hcnt => ?_, fun hcnt hsync => ?_,
    fun hcnt hsync => ?_⟩
  · have hnew := cnt_keeping_of_le hcnt (windowAfter s.w b)
    exact ⟨_, exec_submit_of_no_match (fun h => by omega) ts, hnew, State.phase_of_not_full (by omega)⟩
  · have hnew := cnt_keeping_of_ge hcnt (windowAfter s.w b)
    exact ⟨_, exec_submit_of_no_match (fun h => hsync h.2) ts, hnew, State.phase_of_full hnew⟩
  · exact ⟨_, exec_submit_of_match ⟨hcnt, hsync⟩ ts, rfl, State.phase_of_not_full (by simp)⟩

/-! ### The window over a run -/

/-- Where nothing more arrives, nothing is dropped. -/
theorem newest_append_nil {α : Type} {n : Nat} (l : List α) (h : l.length ≤ n) : newest n (l ++ []) = l := by
  rw [List.append_nil, newest, Nat.sub_eq_zero_of_le h, List.drop_zero]

/-- What was dropped before more arrives would be dropped after it too. -/
theorem newest_newest_append {α : Type} (n : Nat) (l m : List α) : newest n (newest n l ++ m) = newest n (l ++ m) := by
  have hfirst : newest n l ++ m = (l ++ m).drop (l.length - n) :=
    (List.drop_append_of_le_length (Nat.sub_le _ _)).symm
  rw [newest, hfirst, List.drop_drop, List.length_drop, newest]
  congr 1
  simp only [List.length_append]
  omega

theorem State.length_win_le (s : State) : s.win.length ≤ 80 := by
  rw [State.length_win]
  omega

theorem samplesOf_cons (p : Pins) (l : List Pins) : samplesOf (p :: l) = samplesOf [p] ++ samplesOf l := by
  cases h : p.bitValid with
  | false => rw [samplesOf_cons_of_idle h, samplesOf_cons_of_idle h]; rfl
  | true => rw [samplesOf_cons_of_valid h, samplesOf_cons_of_valid h]; rfl

/-- One edge without reset and without event appends the sample presented, if any, and keeps the last 80 (R23). -/
theorem win_of_step {s t : State} {p : Pins} {l : List Pins} (h : s.inputs = p :: l) (hr : p.rst = false)
    (hstep : step s = .next t) (hevent : t.event = none) :
    t.win = newest 80 (s.win ++ (samplesOf [p]).map Prod.fst) := by
  have e := (step_of_no_reset h hr).symm.trans hstep
  cases hv : p.bitValid with
  | false =>
    rw [hv, if_neg Bool.false_ne_true] at e
    obtain rfl := Host.Outcome.next.inj e
    rw [samplesOf_cons_of_idle hv]
    exact (newest_append_nil s.win s.length_win_le).symm
  | true =>
    rw [hv, if_pos rfl] at e
    rw [samplesOf_cons_of_valid hv]
    rcases execSubmit_cases p.bitValue (tsReg s.cfg p.bitTs) (s.withInputs l) with ⟨-, -, e'⟩ | ⟨-, e'⟩ <;>
      obtain rfl := Host.Outcome.next.inj (e.symm.trans e')
    · exact absurd hevent (Option.some_ne_none _)
    · exact (s.withInputs l).win_keeping p.bitValue

/-- R88 from any window: a run without event appends its samples and keeps the last 80. -/
theorem win_after (l rest : List Pins) (s : State) (h : s.inputs = l ++ rest) (hr : ∀ p ∈ l, p.rst = false)
    (hevents : s.events l.length = []) :
    (s.after l.length).win = newest 80 (s.win ++ (samplesOf l).map Prod.fst) ∧ (s.after l.length).inputs = rest := by
  induction l generalizing s with
  | nil => exact ⟨(newest_append_nil s.win s.length_win_le).symm, h⟩
  | cons p l ih =>
    obtain ⟨hp, hl⟩ := List.forall_mem_cons.mp hr
    obtain ⟨t, ht, -⟩ := step_cases s
    obtain ⟨-, hinputs⟩ := stepKeepsParametersAndTakesOneSample s t ht
    rw [List.length_cons, State.events_succ ht, List.append_eq_nil_iff, Option.toList_eq_nil_iff] at hevents
    obtain ⟨hevent, hrest⟩ := hevents
    obtain ⟨hwin, hleft⟩ := ih t (by rw [hinputs, h]; rfl) hl hrest
    rw [List.length_cons, State.after_succ ht, hwin, win_of_step h hp ht hevent, newest_newest_append,
      samplesOf_cons p l, List.map_append, List.append_assoc]
    exact ⟨rfl, hleft⟩

/-- Settles O41: `win_after` from the empty window. -/
theorem fifoPropertyOverRuns : Obligations.FifoPropertyOverRuns := by
  intro s l rest hcnt hinputs hr hevents
  have hrun := win_after l rest s hinputs hr hevents
  rwa [State.win_of_cnt_zero hcnt, List.nil_append] at hrun

end Sys2Proof.Machine
end

section
/-! PROOFS of family 41_sync_detect: PACK, SYNC_CHECK, CLEAR and RETAIN (R90, R91, R93, R94), when a SUBMIT emits (R92),
and where in a stream an event comes (R95, R96). -/

namespace Sys2Proof.Machine

/-! ### The sub-operations of a decode attempt -/

/-- Settles O12: `F` is `W1`. -/
theorem packCopiesTheShiftedWindow : Obligations.PackCopiesTheShiftedWindow := by
  intro s hfull
  exact ⟨s.wires.w1, congrArg Host.Outcome.next (State.whenFull_of_full hfull _), fun _ _ => rfl⟩

/-- A full window's SYNC_CHECK writes its answer and nothing else, whether or not it raises (R91, R141). -/
theorem syncCheckOp_of_full {s : State} (h : s.wires.full = true) :
    syncCheckOp s = s.withWires { s.wires with syncMatch := syncMatches s.wires.f } := by
  rw [syncCheckOp, State.whenFull_of_full h]
  simp only [State.raiseError_eq, ite_self]

/-- Settles O13: the answer is the comparison of the slice at 64. -/
theorem syncCheckComparesSixteenBits : Obligations.SyncCheckComparesSixteenBits := by
  intro s hfull
  exact ⟨syncMatches s.wires.f, congrArg Host.Outcome.next (syncCheckOp_of_full hfull), syncMatches_iff_slice s.wires.f⟩

/-- Settles O20: each operation acts where its guard of R62 holds. -/
theorem clearAndRetainEndTheAttempt : Obligations.ClearAndRetainEndTheAttempt := by
  intro s hfull
  constructor
  · intro hmatch
    exact congrArg Host.Outcome.next (State.whenMatch_of_match hfull hmatch _)
  · intro hmismatch
    exact congrArg Host.Outcome.next (State.whenMismatch_of_mismatch hfull hmismatch _)

/-- Settles O7: a NO_SYNC word is kept as the full window. -/
theorem noSyncWordIsRetainedWithoutEvent : Obligations.NoSyncWordIsRetainedWithoutEvent :=
  fun s f _ => ⟨Wires.quiet, execNoSync_eq f s⟩

/-- Settles O42: the two ends of a SUBMIT, of which only the one that emits sets the pulse. -/
theorem submitEmitsExactlyOnASyncMatch : Obligations.SubmitEmitsExactlyOnASyncMatch := by
  intro s b ts
  by_cases h : 79 ≤ s.cnt.val ∧ slice (windowAfter s.w b).toNat 64 16 = 0xBFFC
  · exact ⟨_, exec_submit_of_match h ts, iff_of_true rfl h⟩
  · exact ⟨_, exec_submit_of_no_match h ts, iff_of_false Bool.false_ne_true h⟩

/-! ### A full window and its bits in arrival order -/

/-- Bits in arrival order are the binary digits of their value, the first least significant (R9, R40). -/
theorem testBit_bitsValue (l : List Bit) (i : Nat) : (bitsValue l).testBit i = l.getD i false := by
  induction l generalizing i with
  | nil => simp [bitsValue]
  | cons b l ih =>
    have hb := b.toNat_lt
    cases i with
    | zero => cases b <;> simp [bitsValue, Nat.testBit_zero]
    | succ i =>
      have hhalf : (b.toNat + 2 * bitsValue l) / 2 = bitsValue l := by omega
      rw [bitsValue, Nat.testBit_succ, hhalf, ih, List.getD_cons_succ]

/-- A frame word is the value of its bits in arrival order (R40, R90). -/
theorem ofNat_bitsValue_arrivalBits (f : FrameWord) : BitVec.ofNat 80 (bitsValue (arrivalBits f)) = f := by
  apply BitVec.eq_of_getLsbD_eq
  intro i hi
  rw [BitVec.getLsbD_ofNat, testBit_bitsValue, arrivalBits]
  simp [hi]

/-- The abstract window of a full block is `W` in arrival order (R23). -/
theorem State.win_of_full {s : State} (h : s.cnt = fullCount) : s.win = arrivalBits s.w := by
  simp [State.win, arrivalBits, h, fullCount]

/-- The sixteen bits that arrived last are those of the sync field (R42). -/
theorem newest_arrivalBits (f : FrameWord) :
    newest 16 (arrivalBits f) = (List.range 16).map (f.extractLsb' 64 16).getLsbD := by
  apply List.ext_getElem
  · simp [newest, arrivalBits]
  · intro k hk _
    have hk16 : k < 16 := by simpa [newest, arrivalBits] using hk
    simp [newest, arrivalBits, hk16]

theorem arrivalSync_eq : arrivalSync = (List.range 16).map syncWord.getLsbD := by decide

/-- The sync comparison in arrival order (R42, R91). -/
theorem newest_arrivalBits_eq_arrivalSync_iff (f : FrameWord) :
    newest 16 (arrivalBits f) = arrivalSync ↔ syncMatches f = true := by
  rw [newest_arrivalBits, arrivalSync_eq, List.map_inj_left, syncMatches, memRead, beq_iff_eq]
  constructor
  · intro h
    exact BitVec.eq_of_getLsbD_eq fun k hk => h k (List.mem_range.mpr hk)
  · rintro h k -
    rw [h]

/-! ### A SUBMIT in a stream -/

/-- The values submitted since a clearing event are eighty or more and end with the sync word in arrival order
(R95, R96); `submit_emits_iff` says that a SUBMIT emits exactly then. -/
def EndsSyncRun (values : List Bit) : Prop := 80 ≤ values.length ∧ newest 16 values = arrivalSync

theorem newest_newest_of_le {α : Type} {m n : Nat} (h : m ≤ n) (l : List α) : newest m (newest n l) = newest m l := by
  rw [newest, newest, List.drop_drop, List.length_drop, newest]
  congr 1
  omega

section
variable {s : State} {values : List Bit}

/-- The count reaches 79 with the 79th value. -/
theorem cnt_ge_iff_of_win (hwin : s.win = newest 80 values) (b : Bit) :
    79 ≤ s.cnt.val ↔ 80 ≤ (values ++ [b]).length := by
  rw [← State.length_win, hwin, newest, List.length_drop, List.length_append, List.length_singleton]
  omega

/-- The window a SUBMIT fills holds the last eighty values (R88). -/
theorem arrivalBits_windowAfter (hwin : s.win = newest 80 values) (b : Bit) (hcnt : 79 ≤ s.cnt.val) :
    arrivalBits (windowAfter s.w b) = newest 80 (values ++ [b]) := by
  have hfull : countedUp s.cnt = fullCount := by
    apply eq_fullCount_of_isFull
    rw [isFull_countedUp]
    exact decide_eq_true hcnt
  calc arrivalBits (windowAfter s.w b)
    _ = (s.keeping (shiftedIn s.w b) (countedUp s.cnt)).win := by
      rw [windowAfter_eq_shiftedIn, State.win_of_full hfull, State.keeping_w]
    _ = newest 80 (values ++ [b]) := by rw [State.win_keeping, hwin, newest_newest_append]

/-- The condition of R85 on the window is that of R95 on the values submitted. -/
theorem submit_emits_iff (hwin : s.win = newest 80 values) (b : Bit) :
    (79 ≤ s.cnt.val ∧ slice (windowAfter s.w b).toNat 64 16 = 0xBFFC) ↔ EndsSyncRun (values ++ [b]) := by
  rw [EndsSyncRun, ← cnt_ge_iff_of_win hwin, and_congr_right_iff]
  intro hcnt
  rw [← syncMatches_iff_slice, ← newest_arrivalBits_eq_arrivalSync_iff, arrivalBits_windowAfter hwin b hcnt,
    newest_newest_of_le (by decide)]

variable {p : Pins} {rest : List Pins}

/-- An edge with a valid bit performs the SUBMIT of it. -/
theorem step_of_valid (hin : s.inputs = p :: rest) (hr : p.rst = false) (hv : p.bitValid = true) :
    step s = exec (.submit p.bitValue (tsReg s.cfg p.bitTs)) (s.withInputs rest) :=
  (step_of_no_reset hin hr).trans (if_pos hv)

/-- A SUBMIT that completes the sync word emits the frame of the last eighty values (R95). -/
theorem step_of_endsSyncRun (hwin : s.win = newest 80 values) (hin : s.inputs = p :: rest) (hr : p.rst = false)
    (hv : p.bitValid = true) (hsync : EndsSyncRun (values ++ [p.bitValue])) :
    step s = .next ((s.withInputs rest).emitting (decodedPayload s.cfg
      (BitVec.ofNat 80 (bitsValue (newest 80 (values ++ [p.bitValue])))) (tsReg s.cfg p.bitTs))) := by
  have hemits := (submit_emits_iff hwin p.bitValue).mpr hsync
  rw [← arrivalBits_windowAfter hwin _ hemits.1, ofNat_bitsValue_arrivalBits, step_of_valid hin hr hv]
  exact exec_submit_of_match (s := s.withInputs rest) hemits _

/-- Any other SUBMIT keeps the window (R84, R94). -/
theorem step_of_not_endsSyncRun (hwin : s.win = newest 80 values) (hin : s.inputs = p :: rest) (hr : p.rst = false)
    (hv : p.bitValid = true) (hsync : ¬ EndsSyncRun (values ++ [p.bitValue])) :
    step s = .next ((s.withInputs rest).keeping (windowAfter s.w p.bitValue) (countedUp s.cnt)) := by
  rw [step_of_valid hin hr hv]
  exact exec_submit_of_no_match (s := s.withInputs rest) (mt (submit_emits_iff hwin p.bitValue).mp hsync) _

end

/-! ### Streams -/

theorem State.after_add (s : State) (j k : Nat) : s.after (j + k) = (s.after j).after k := by
  induction j generalizing s with
  | zero => rw [Nat.zero_add, State.after]
  | succ j ih =>
    obtain ⟨t, ht, -⟩ := step_cases s
    rw [Nat.succ_add, State.after_succ ht, State.after_succ ht, ih]

theorem State.events_add (s : State) (j k : Nat) : s.events (j + k) = s.events j ++ (s.after j).events k := by
  induction j generalizing s with
  | zero => rw [Nat.zero_add, State.events, List.nil_append, State.after]
  | succ j ih =>
    obtain ⟨t, ht, -⟩ := step_cases s
    rw [Nat.succ_add, State.events_succ ht, State.events_succ ht, State.after_succ ht, ih, List.append_assoc]

/-- A run keeps the parameters (R27). -/
theorem State.after_cfg (s : State) (k : Nat) : (s.after k).cfg = s.cfg := by
  induction k generalizing s with
  | zero => rw [State.after]
  | succ k ih =>
    obtain ⟨t, ht, -⟩ := step_cases s
    rw [State.after_succ ht, ih, (stepKeepsParametersAndTakesOneSample s t ht).1]

theorem State.events_one {s t : State} (h : step s = .next t) : s.events 1 = t.event.toList := by
  rw [State.events_succ h, State.events, List.append_nil]

theorem State.after_one {s t : State} (h : step s = .next t) : s.after 1 = t := by
  rw [State.after_succ h, State.after]

theorem samplesOf_nil : samplesOf [] = [] := rfl

theorem samplesOf_append (l m : List Pins) : samplesOf (l ++ m) = samplesOf l ++ samplesOf m := by
  rw [samplesOf, List.filter_append, List.map_append, samplesOf, samplesOf]

/-- Settles O43: the run before leaves the last values in the window (R88), and the edge of `p` is a SUBMIT that completes
the sync word or does not. -/
theorem eventPositionInTheStream : Obligations.EventPositionInTheStream := by
  intro s l rest p hcnt hinputs hr hv hsilent hwf hts values n
  obtain ⟨hp, hl⟩ := List.forall_mem_cons.mp hr
  obtain ⟨hwin, hin⟩ := fifoPropertyOverRuns s l (p :: rest) hcnt hinputs hl hsilent
  rw [State.events_add, hsilent, List.nil_append, State.after_add]
  constructor
  · intro hsync
    have hstep := step_of_endsSyncRun hwin hin hp hv hsync
    rw [State.after_cfg, tsReg_of_lt hts, decodedPayload_eq_eventOfFields hwf hts, eventOfFields_fieldsOf] at hstep
    rw [State.events_one hstep, State.after_one hstep]
    exact ⟨rfl, rfl⟩
  · intro hsync
    exact State.events_one (step_of_not_endsSyncRun hwin hin hp hv hsync)

/-- The next edge of a stream that has given no event gives none either exactly when it presents no sample, or one that
does not complete the sync word. -/
theorem events_one_eq_nil_iff {s : State} {values : List Bit} {p : Pins} {rest : List Pins}
    (hwin : s.win = newest 80 values) (hin : s.inputs = p :: rest) (hr : p.rst = false) :
    s.events 1 = [] ↔ (p.bitValid = true → ¬ EndsSyncRun (values ++ [p.bitValue])) := by
  by_cases hv : p.bitValid = true
  · by_cases hsync : EndsSyncRun (values ++ [p.bitValue])
    · rw [State.events_one (step_of_endsSyncRun hwin hin hr hv hsync)]
      exact iff_of_false (List.cons_ne_nil _ _) fun h => h hv hsync
    · rw [State.events_one (step_of_not_endsSyncRun hwin hin hr hv hsync)]
      exact iff_of_true rfl fun _ => hsync
  · rw [State.events_one ((step_of_no_reset hin hr).trans (if_neg hv))]
    exact iff_of_true rfl fun h => absurd h hv

theorem forall_prefix_concat_iff {α : Type} (P : List α → Prop) (l : List α) (x : α) :
    (∀ m, m <+: l ++ [x] → P m) ↔ (∀ m, m <+: l → P m) ∧ P (l ++ [x]) := by
  simp only [List.prefix_concat_iff, or_imp, forall_and, forall_eq]
  exact and_comm

/-- R96 over the prefixes of the values submitted, by induction on the edges from the last one backwards. -/
theorem events_eq_nil_iff (l : List Pins) (s : State) (rest : List Pins) (hcnt : s.cnt = 0)
    (hinputs : s.inputs = l ++ rest) (hr : ∀ p ∈ l, p.rst = false) :
    s.events l.length = [] ↔ ∀ values, values <+: (samplesOf l).map Prod.fst → ¬ EndsSyncRun values := by
  induction l using List.reverseRecOn generalizing rest with
  | nil =>
    refine iff_of_true rfl fun values hprefix hsync => ?_
    rw [List.prefix_nil.mp hprefix] at hsync
    exact absurd hsync.1 (by decide)
  | append_singleton l p ih =>
    obtain ⟨hl, hp⟩ := List.forall_mem_append.mp hr
    rw [List.append_assoc] at hinputs
    have hlast : s.events l.length = [] → ((s.after l.length).events 1 = [] ↔
        (p.bitValid = true → ¬ EndsSyncRun ((samplesOf l).map Prod.fst ++ [p.bitValue]))) := by
      intro hsilent
      obtain ⟨hwin, hin⟩ := fifoPropertyOverRuns s l (p :: rest) hcnt hinputs hl hsilent
      exact events_one_eq_nil_iff hwin hin (hp p (List.mem_singleton_self p))
    rw [List.length_append, List.length_singleton, State.events_add, List.append_eq_nil_iff, and_congr_right hlast,
      ih _ hinputs hl, samplesOf_append]
    cases hv : p.bitValid with
    | false =>
      rw [samplesOf_cons_of_idle hv, samplesOf_nil, List.append_nil]
      exact and_iff_left fun h => absurd h Bool.false_ne_true
    | true =>
      rw [samplesOf_cons_of_valid hv, samplesOf_nil, List.map_append, forall_prop_of_true rfl]
      exact (forall_prefix_concat_iff (¬ EndsSyncRun ·) _ _).symm

/-- Settles O44: the prefixes of the values submitted are what `take` gives. -/
theorem noEventWithoutTheSyncPattern : Obligations.NoEventWithoutTheSyncPattern := by
  intro s l rest hcnt hinputs hr
  rw [events_eq_nil_iff l s rest hcnt hinputs hr]
  constructor
  · intro h n hfull hn hsync
    refine h _ (List.take_prefix n _) ⟨?_, hsync⟩
    rwa [List.length_take, List.length_map, Nat.min_eq_left hn]
  · intro h values hprefix hsync
    obtain ⟨hfull, hends⟩ := hsync
    rw [List.prefix_iff_eq_take.mp hprefix] at hends
    exact h _ hfull (hprefix.length_le.trans_eq (List.length_map ..)) hends

end Sys2Proof.Machine
end

section
/-! PROOFS of family 42_bcd_extract: the extractors and flags (R100 to R105), the event of an LTC_FRAME word, and the
round trip of an encoded timecode (R109). -/

namespace Sys2Proof.Machine

/-! ### The extractors and the flags -/

/-- A two-digit field is the sum of its two slices, over the integers (R65, R107). -/
theorem toNat_assembleField_memRead (f : FrameWord) (unitsAt tensAt : Nat) {t : Nat} (ht : t ≤ 3) :
    (assembleField (memRead f unitsAt 4) (memRead f tensAt t)).toNat =
      slice f.toNat unitsAt 4 + 10 * slice f.toNat tensAt t := by
  rw [toNat_assembleField _ _ (Nat.le_refl 4) ht, toNat_memRead, toNat_memRead, slice, slice]

/-- Settles O14: each extractor acts, its condition being met, and writes one field read and one assembled. -/
theorem extractedFieldsAreUnitsPlusTenTens : Obligations.ExtractedFieldsAreUnitsPlusTenTens := by
  intro s hfull hmatch
  have hacts (g : State → State) : (.next (s.whenMatch g) : Host.Outcome State Fault Refusal) = .next (g s) :=
    congrArg Host.Outcome.next (State.whenMatch_of_match hfull hmatch g)
  refine ⟨⟨_, _, hacts _, ?_⟩, ⟨_, _, hacts _, ?_⟩, ⟨_, _, hacts _, ?_⟩, ⟨_, _, hacts _, ?_⟩⟩ <;>
    exact ⟨toNat_memRead .., toNat_assembleField_memRead _ _ _ (by decide)⟩

/-- Settles O15: each flag is the bit field of width one at its place. -/
theorem flagsAreFrameBitsTenAndEleven : Obligations.FlagsAreFrameBitsTenAndEleven := by
  intro s hfull hmatch
  rw [← extractLsb'_one_beq, ← extractLsb'_one_beq]
  constructor <;> exact congrArg Host.Outcome.next (State.whenMatch_of_match hfull hmatch _)

/-! ### The event of an LTC_FRAME word -/

/-- LTC_FRAME in closed form, its event read from the operand's own fields (R121, R93). -/
theorem exec_ltcFrame_eq_emitting {s : State} {ts : Nat} (hwf : s.cfg.wf = true) (hts : ts < 2 ^ s.cfg.tsW)
    (y : FrameFields) : exec (.ltcFrame y ts) s = .next (s.emitting (eventOfFields s.cfg y ts)) := by
  have hpayload := decodedPayload_eq_eventOfFields hwf hts (encodeFrame y)
  rw [fieldsOf_encodeFrame] at hpayload
  rw [← hpayload]
  exact execLtcFrame_eq y ts s

/-- Settles O6: a word with the sync field is the instruction of its fields, which are slices of its number. -/
theorem ltcFrameWordEmitsItsEventAndClears : Obligations.LtcFrameWordEmitsItsEventAndClears := by
  intro s ts hwf hts
  refine ⟨fun y => ⟨_, exec_ltcFrame_eq_emitting hwf hts y⟩, fun f hsync => ⟨Wires.quiet, ?_⟩⟩
  rw [decode_frame_of_isLtcFrame ((isLtcFrame_iff f).mpr hsync), ← eventOfFields_fieldsOf]
  exact exec_ltcFrame_eq_emitting hwf hts (fieldsOf f)

/-! ### A frame word submitted bit by bit -/

@[simp] theorem samplesOf_sampleStream (l : List (Bit × Nat)) : samplesOf (sampleStream l) = l := by
  induction l with
  | nil => rfl
  | cons x l ih => exact congrArg (x :: ·) ih

theorem sampleStream_no_reset (l : List (Bit × Nat)) : ∀ p ∈ sampleStream l, p.rst = false :=
  List.forall_mem_map.mpr fun _ _ => rfl

@[simp] theorem length_sampleStream (l : List (Bit × Nat)) : (sampleStream l).length = l.length := List.length_map ..

@[simp] theorem length_arrivalBits (f : FrameWord) : (arrivalBits f).length = 80 := by simp [arrivalBits]

/-- The last bit of an LTC_FRAME word completes its sync field (R42, R95). -/
theorem endsSyncRun_arrivalBits {f : FrameWord} (h : isLtcFrame f = true) : EndsSyncRun (arrivalBits f) := by
  rw [isLtcFrame_eq_syncMatches] at h
  exact ⟨(length_arrivalBits f).ge, (newest_arrivalBits_eq_arrivalSync_iff f).mpr h⟩

/-- From an empty window, fewer than eighty samples give no event (R171). -/
theorem events_eq_nil_of_length_lt {s : State} {l rest : List Pins} (hcnt : s.cnt = 0) (hinputs : s.inputs = l ++ rest)
    (hr : ∀ p ∈ l, p.rst = false) (hshort : (samplesOf l).length < 80) : s.events l.length = [] := by
  refine (events_eq_nil_iff l s rest hcnt hinputs hr).mpr fun values hprefix hsync => ?_
  have hle := hprefix.length_le
  rw [List.length_map] at hle
  exact absurd hsync.1 (by omega)

/-- The bits of an LTC_FRAME word submitted from an empty window: all but the last are silent, and the last emits the
event of the word (R95, R171). -/
theorem step_of_last_frame_bit {s : State} {f : FrameWord} {xs : List (Bit × Nat)} {x : Bit × Nat} {rest : List Pins}
    (hf : isLtcFrame f = true) (hcnt : s.cnt = 0) (hinputs : s.inputs = sampleStream xs ++ Pins.submit x.1 x.2 :: rest)
    (hbits : xs.map Prod.fst ++ [x.1] = arrivalBits f) :
    s.events xs.length = [] ∧ step (s.after xs.length) =
      .next (((s.after xs.length).withInputs rest).emitting (decodedPayload s.cfg f (tsReg s.cfg x.2))) := by
  have hlen : xs.length + 1 = 80 := by simpa using congrArg List.length hbits
  have hsilent := events_eq_nil_of_length_lt hcnt hinputs (sampleStream_no_reset xs)
    (by rw [samplesOf_sampleStream]; omega)
  obtain ⟨hwin, hin⟩ := fifoPropertyOverRuns s _ _ hcnt hinputs (sampleStream_no_reset xs) hsilent
  simp only [length_sampleStream, samplesOf_sampleStream] at hsilent hwin hin
  have hstep := step_of_endsSyncRun hwin hin rfl rfl (hbits ▸ endsSyncRun_arrivalBits hf)
  have hword : BitVec.ofNat 80 (bitsValue (newest 80 (xs.map Prod.fst ++ [x.1]))) = f := by
    rw [hbits, newest, length_arrivalBits, Nat.sub_self, List.drop_zero, ofNat_bitsValue_arrivalBits]
  dsimp only [Pins.submit] at hstep
  rw [hword, State.after_cfg] at hstep
  exact ⟨hsilent, hstep⟩

/-- An LTC_FRAME word submitted bit by bit from an empty window, IDLEs between its bits or not, gives its event alone. -/
theorem events_of_frame {s : State} {f : FrameWord} {l rest : List Pins} (hf : isLtcFrame f = true) (hcnt : s.cnt = 0)
    (hinputs : s.inputs = l ++ rest) (hr : ∀ p ∈ l, p.rst = false)
    (hbits : (samplesOf l).map Prod.fst = arrivalBits f) :
    ∃ ts, s.events l.length = [decodedPayload s.cfg f ts] := by
  rw [(events_of_samples l rest s hinputs hr).1]
  generalize samplesOf l = samples at hbits
  rcases List.eq_nil_or_concat' samples with rfl | ⟨xs, x, rfl⟩
  · exact absurd ((congrArg List.length hbits).trans (length_arrivalBits f)) (by decide)
  · have hstream : sampleStream (xs ++ [x]) ++ rest = sampleStream xs ++ Pins.submit x.1 x.2 :: rest := by
      simp [sampleStream]
    rw [List.map_append] at hbits
    rw [hstream, List.length_append, List.length_singleton, State.events_add]
    obtain ⟨hsilent, hstep⟩ := step_of_last_frame_bit
      (s := s.withInputs (sampleStream xs ++ Pins.submit x.1 x.2 :: rest)) hf hcnt rfl hbits
    rw [hsilent, State.events_one hstep]
    exact ⟨_, rfl⟩

/-! ### The round trip of a timecode -/

theorem isLtcFrame_enc {hh mm ss ff : Nat} (df cf : Bit) (hhh : hh / 10 ≤ 3) (hmm : mm / 10 ≤ 7) (hss : ss / 10 ≤ 7)
    (hff : ff / 10 ≤ 3) : isLtcFrame (enc hh mm ss ff df cf) = true := by
  rw [enc_eq_encodeFrame df cf hhh hmm hss hff, isLtcFrame_encodeFrame]

/-- Settles O47: the word gives its event (`events_of_frame`), made of the fields that the encoder wrote. -/
theorem encodedTimecodeYieldsItsString : Obligations.EncodedTimecodeYieldsItsString := by
  intro s hh mm ss ff df cf l rest hhh hmm hss hff hcnt hinputs hr hbits
  have hltc := isLtcFrame_enc df cf hhh hmm hss hff
  obtain ⟨ts, hevents⟩ := events_of_frame hltc hcnt hinputs hr hbits
  obtain ⟨x, hdecode, hhours, hminutes, hseconds, hframes, hdrop, hcolor⟩ :=
    testEncoderReturnsItsValues hh mm ss ff ts df cf hhh hmm hss hff
  rw [decode_frame_of_isLtcFrame hltc] at hdecode
  obtain ⟨rfl, -⟩ := Instr.ltcFrame.inj hdecode
  obtain ⟨hhhValue, hmmValue, hssValue, hffValue⟩ := toNat_decodedPayload s.cfg (enc hh mm ss ff df cf) ts
  have hstr := decodedPayload_str s.cfg (enc hh mm ss ff df cf) ts
  rw [eventOfFields, eventOfNumbers, hhours, hminutes, hseconds, hframes, hdrop] at hstr
  exact ⟨_, hevents, hstr, hhhValue.trans hhours, hmmValue.trans hminutes, hssValue.trans hseconds,
    hffValue.trans hframes, (dropFrameFlag_eq _).trans hdrop, (colorFrameFlag_eq _).trans hcolor⟩

end Sys2Proof.Machine
end

section
/-! PROOFS of family 43_format_event: FORMAT, TIMESTAMP and EMIT (R115 to R121), and the events of successive SUBMITs. -/

namespace Sys2Proof.Machine

/-! ### FORMAT, TIMESTAMP and EMIT -/

/-- The tens digit of a 7-bit value is at most 12, so both characters fit their bytes whatever the value (R115). -/
theorem toNat_dec2 (v : FieldValue) : (dec2 v).1.toNat * 256 + (dec2 v).2.toNat = twoDigitCode v.toNat := by
  have hv := v.isLt
  simp only [dec2, digitChar, twoDigitCode, BitVec.toNat_ofNat]
  omega

theorem toNat_separatorChar (df : Bit) : (separatorChar df).toNat = if df then 0x3B else 0x3A := by
  cases df <;> rfl

/-- The string as one number, for values that need not have two digits (R43, R115 to R117). -/
theorem timecodeString_eq_ofNat (hh mm ss ff : FieldValue) (df : Bit) :
    timecodeString hh mm ss ff df = BitVec.ofNat 88 (stringCode hh.toNat mm.toNat ss.toNat ff.toNat df) := by
  have hcolon : colonChar.toNat = 0x3A := rfl
  rw [timecodeString, packChars_eq_ofNat]
  refine congrArg (BitVec.ofNat 88) ?_
  simp only [timecodeChars, List.foldl_cons, List.foldl_nil, stringCode, ← toNat_dec2, toNat_separatorChar, hcolon]
  ring

/-- Settles O17: FORMAT acts, its condition being met, and writes the string, which is `timecodeString_eq_ofNat`. -/
theorem formatWritesTheTimecodeString : Obligations.FormatWritesTheTimecodeString := by
  intro s hfull hmatch
  rw [← timecodeString_eq_ofNat]
  exact congrArg Host.Outcome.next (State.whenMatch_of_match hfull hmatch _)

/-- Settles O18: TIMESTAMP acts, its condition being met; the register holds a timestamp that fits, and the start wraps
at most once. -/
theorem timestampGivesTheEndAndTheStart : Obligations.TimestampGivesTheEndAndTheStart := by
  intro s ts hfull hmatch hwf hts
  have hend : endTimestamp s.cfg ts = ts := tsReg_of_lt hts
  rw [← startTimestamp_eq_ite (Config.spanTicks_lt_of_wf hwf) hts]
  exact (congrArg Host.Outcome.next (State.whenMatch_of_match hfull hmatch _)).trans (by rw [hend, State.withWires])

/-- Settles O19: EMIT acts, its condition being met. -/
theorem emitPresentsEveryDecodedValue : Obligations.EmitPresentsEveryDecodedValue := by
  intro s hfull hmatch
  exact congrArg Host.Outcome.next (State.whenMatch_of_match hfull hmatch _)

/-! ### The events of SUBMITs -/

/-- Settles O48: the invariant says that the event left the window empty, and one sample does not fill it. -/
theorem noTwoConsecutiveEvents : Obligations.NoTwoConsecutiveEvents := by
  intro s b ts hinv hvalid
  obtain ⟨hempty, -, -⟩ := hinv.pulse hvalid
  have hcnt : s.cnt.val = 0 := congrArg Fin.val hempty
  refine ⟨_, exec_submit_of_no_match (fun h => by omega) ts, rfl, ?_⟩
  rw [cnt_keeping_of_le (by omega), hcnt]

theorem Config.spanTicks_pos_of_wf {c : Config} (h : c.wf = true) : 0 < c.spanTicks := by
  rw [Config.wf, Bool.and_eq_true, Bool.and_eq_true, decide_eq_true_iff, decide_eq_true_iff] at h
  obtain ⟨⟨-, hticks⟩, -⟩ := h
  exact Nat.mul_pos (by decide) hticks

/-- The event that a SUBMIT leaves on the pins is one that it decoded. -/
theorem payload_of_exec_submit {s t : State} {b : Bit} {ts : Nat} (h : exec (.submit b ts) s = .next t)
    (hvalid : t.evValid = true) : t.payload = decodedPayload s.cfg (shiftedIn s.w b) ts := by
  rcases execSubmit_cases b ts s with ⟨-, -, e⟩ | ⟨-, e⟩ <;> obtain rfl := Host.Outcome.next.inj (h.symm.trans e)
  · exact State.emitting_payload ..
  · exact absurd hvalid Bool.false_ne_true

/-- Settles O50: under PRE_TS the start is the end less the span, which is positive; otherwise it wraps, and since the
span is less than the range of a timestamp it lies above the end. -/
theorem startPrecedesEndExactlyUnderPreTs : Obligations.StartPrecedesEndExactlyUnderPreTs := by
  intro s t b ts hwf hts h hvalid
  have hpos := Config.spanTicks_pos_of_wf hwf
  have hspan := Config.spanTicks_lt_of_wf hwf
  have hend : (decodedPayload s.cfg (shiftedIn s.w b) ts).endTs = ts := tsReg_of_lt hts
  have hstart : (decodedPayload s.cfg (shiftedIn s.w b) ts).startTs = _ := startTimestamp_eq_ite hspan hts
  rw [payload_of_exec_submit h hvalid, hend, hstart, PreTs]
  generalize 2 ^ s.cfg.tsW = range at hspan
  split_ifs with hpre <;> omega

end Sys2Proof.Machine
end

section
/-! PROOFS of family 44_rate_validator: VALIDATE (R130), and that its result reaches `EV_VAL` of an event and nothing
else (R131, R132). -/

namespace Sys2Proof.Machine

/-! ### VALIDATE -/

/-- The digits' flag at its place in `val`, beside `getLsbD_packFlags` (R130). -/
theorem getLsbD_packFlags_zero (df hh mm ss ff bcd : Bool) : (packFlags df hh mm ss ff bcd).getLsbD 0 = bcd := by
  revert df hh mm ss ff bcd
  decide

theorem bcdOk_iff (fu su mu hu : BitVec 4) :
    bcdOk fu su mu hu = true ↔ fu.toNat ≤ 9 ∧ su.toNat ≤ 9 ∧ mu.toNat ≤ 9 ∧ hu.toNat ≤ 9 := by
  simp only [bcdOk, Bool.and_eq_true, decide_eq_true_eq, and_assoc]

theorem dropFrameOk_iff (fps : FrameRate) (df : Bit) :
    dropFrameOk fps df = true ↔ df = false ∨ fpsValue fps = 30 := by
  rw [dropFrameOk, Bool.or_eq_true, Bool.not_eq_true', beq_iff_eq]

/-- Settles O16: VALIDATE acts, its condition being met, and each flag is one comparison at its place in `val`. -/
theorem validateComputesTheSixFlags : Obligations.ValidateComputesTheSixFlags := by
  intro s hfull hmatch
  refine ⟨validatorFlags s.cfg.fps s.wires,
    congrArg Host.Outcome.next (State.whenMatch_of_match hfull hmatch _), ?_⟩
  rw [validatorFlags]
  obtain ⟨hff, hss, hmm, hhh, hdf⟩ := getLsbD_packFlags (dropFrameOk s.cfg.fps s.wires.dropFrame)
    (hoursOk s.wires.hours) (sixtyOk s.wires.minutes) (sixtyOk s.wires.seconds) (framesOk s.cfg.fps s.wires.frames)
    (bcdOk s.wires.ffUnits s.wires.ssUnits s.wires.mmUnits s.wires.hhUnits)
  rw [getLsbD_packFlags_zero, hff, hss, hmm, hhh, hdf]
  exact ⟨bcdOk_iff .., decide_eq_true_iff, decide_eq_true_iff, decide_eq_true_iff, decide_eq_true_iff,
    dropFrameOk_iff ..⟩

/-! ### A SUBMIT cut at VALIDATE -/

/-- Sub-operations 1 to 7 of R62 (`execAll_partsBeforeValidate`). -/
def beforeValidate (b : Bit) (s : State) : State :=
  flagColorOp (flagDropOp (extractHoursOp (extractMinutesOp (extractSecondsOp (extractFramesOp
    (syncCheckOp (packOp (fullTestOp (countOp (shiftInOp b s))))))))))

/-- Sub-operations 9 to 12 of R62 (`execAll_partsAfterValidate`). -/
def afterValidate (ts : Nat) (s : State) : State := retainOp (clearOp (emitOp (timestampOp ts (formatOp s))))

/-- Some flags in the place of VALIDATE's result. -/
def State.withVal (s : State) (v : BitVec 6) : State := s.withWires { s.wires with val := v }

/-- The event that sub-operations 9 to 11 make of the decoded values (R115 to R121). -/
def Wires.reported (x : Wires) (c : Config) (ts : Nat) : Payload :=
  Wires.toPayload { x with
    str := timecodeString x.hours x.minutes x.seconds x.frames x.dropFrame
    endTs := endTimestamp c ts
    startTs := startTimestamp c ts }

theorem execAll_partsBeforeValidate (b : Bit) (s : State) :
    execAll (partsBeforeValidate b) s = .next (beforeValidate b s) := rfl

theorem execAll_partsAfterValidate (ts : Nat) (s : State) :
    execAll (partsAfterValidate ts) s = .next (afterValidate ts s) := rfl

theorem exec_submit_eq_cut (b : Bit) (ts : Nat) (s : State) :
    exec (.submit b ts) s = .next (afterValidate ts (validateOp (beforeValidate b s.settle))).settle := rfl

theorem validateOp_of_match {s : State} (hf : s.wires.full = true) (hm : s.wires.syncMatch = true) :
    validateOp s = s.withVal (validatorFlags s.cfg.fps s.wires) := State.whenMatch_of_match hf hm _

/-- With the window not full, FULL_TEST ends the SUBMIT without event and the parts up to VALIDATE do nothing more (R62,
R84). -/
theorem beforeValidate_of_not_full {s : State} (h : isFull (countedUp s.cnt) = false) (b : Bit) :
    (beforeValidate b s).evValid = false := by
  have hend : fullTestOp (countOp (shiftInOp b s)) = keepAccumulating
      ((countOp (shiftInOp b s)).withWires { (countOp (shiftInOp b s)).wires with full := false }) := by
    simp [fullTestOp, countOp, shiftInOp, h]
  have hno : (fullTestOp (countOp (shiftInOp b s))).wires.full = false := by rw [hend]; rfl
  have hskip : beforeValidate b s = fullTestOp (countOp (shiftInOp b s)) := by
    simp only [beforeValidate, packOp, syncCheckOp, extractFramesOp, extractSecondsOp, extractMinutesOp,
      extractHoursOp, flagDropOp, flagColorOp, State.whenFull_of_not_full, State.whenMatch_of_not_full, hno]
  rw [hskip, hend]
  rfl

/-- With the window full, the parts up to VALIDATE leave `full` standing, whatever the sync field (R84). -/
theorem beforeValidate_of_full {s : State} (h : isFull (countedUp s.cnt) = true) (b : Bit) :
    (beforeValidate b s).wires.full = true := by
  cases hsync : syncMatches (shiftedIn s.w b) <;>
    simp [beforeValidate, packOp, syncCheckOp, extractFramesOp, extractSecondsOp, extractMinutesOp, extractHoursOp,
      flagDropOp, flagColorOp, fullTestOp, countOp, shiftInOp, State.whenFull, State.whenMatch, h, hsync]

/-- A SUBMIT whose window is not full has no event standing when it comes to VALIDATE (R84). -/
theorem beforeValidate_silent (b : Bit) (s : State) (hno : (beforeValidate b s).wires.full = false) :
    (beforeValidate b s).evValid = false := by
  cases h : isFull (countedUp s.cnt) with
  | false => exact beforeValidate_of_not_full h b
  | true => exact absurd (hno.symm.trans (beforeValidate_of_full h b)) Bool.false_ne_true

theorem afterValidate_of_not_full {s : State} (h : s.wires.full = false) (ts : Nat) : afterValidate ts s = s := by
  simp only [afterValidate, formatOp, timestampOp, emitOp, clearOp, retainOp, State.whenMatch_of_not_full,
    State.whenMismatch_of_not_full, h]

/-- After a mismatch only RETAIN acts (R94). -/
theorem afterValidate_of_mismatch {s : State} (hf : s.wires.full = true) (hm : s.wires.syncMatch = false) (ts : Nat) :
    (afterValidate ts s).settle = s.keeping s.wires.w1 fullCount := by
  simp only [afterValidate, formatOp, timestampOp, emitOp, clearOp, retainOp, State.whenMatch_of_mismatch,
    State.whenMismatch_of_mismatch, hf, hm, State.keeping]

/-- After a match all but RETAIN act: the event is presented and the window cleared (R93, R121). -/
theorem afterValidate_of_match {s : State} (hf : s.wires.full = true) (hm : s.wires.syncMatch = true) (ts : Nat) :
    (afterValidate ts s).settle = s.emitting (s.wires.reported s.cfg ts) := by
  simp [afterValidate, formatOp, timestampOp, emitOp, clearOp, retainOp, State.whenMatch, State.whenMismatch, hf, hm,
    State.emitting, Wires.reported, Wires.toPayload, State.withWires, State.present, State.writeWindow, State.settle]

/-! ### What the flags reach -/

/-- Of the two ends of a SUBMIT only the one that emits reads the flags, and it copies them to `EV_VAL` (R131). -/
theorem afterValidate_withVal {m : State} (hsilent : m.wires.full = false → m.evValid = false) (v : BitVec 6)
    (ts : Nat) :
    (afterValidate ts (m.withVal v)).settle =
      if (afterValidate ts (validateOp m)).settle.evValid then
        { (afterValidate ts (validateOp m)).settle with
          payload := { (afterValidate ts (validateOp m)).settle.payload with val := v } }
      else (afterValidate ts (validateOp m)).settle := by
  cases hf : m.wires.full with
  | false =>
    have hskip : validateOp m = m := State.whenMatch_of_not_full hf _
    have hno : (m.withVal v).wires.full = false := hf
    rw [hskip, afterValidate_of_not_full hno, afterValidate_of_not_full hf, State.settle_evValid, hsilent hf]
    rfl
  | true =>
    have hfull (x : BitVec 6) : (m.withVal x).wires.full = true := hf
    cases hm : m.wires.syncMatch with
    | false =>
      have hskip : validateOp m = m := State.whenMatch_of_mismatch hm _
      have hno : (m.withVal v).wires.syncMatch = false := hm
      rw [hskip, afterValidate_of_mismatch (hfull v) hno, afterValidate_of_mismatch hf hm]
      rfl
    | true =>
      have hmatch (x : BitVec 6) : (m.withVal x).wires.syncMatch = true := hm
      rw [validateOp_of_match hf hm, afterValidate_of_match (hfull _) (hmatch _),
        afterValidate_of_match (hfull _) (hmatch _)]
      rfl

/-- The rate enters a SUBMIT through the validator's flags alone: the window, the comparison and every other value of
the event are computed without it (R132). -/
theorem execSubmit_builtFor {s t : State} {b : Bit} {ts : Nat} (h : execSubmit b ts s = .next t) (r : FrameRate) :
    ∃ v : BitVec 6,
      execSubmit b ts (s.builtFor r) = .next { t.builtFor r with payload := { t.payload with val := v } } ∧
      (t.evValid = false → v = t.payload.val) := by
  obtain rfl := Host.Outcome.next.inj (h.symm.trans (execSubmit_eq b ts s))
  by_cases hemit : (isFull (countedUp s.cnt) && syncMatches (shiftedIn s.w b)) = true
  · refine ⟨(decodedPayload (s.builtFor r).cfg (shiftedIn s.w b) ts).val, (execSubmit_eq ..).trans ?_, ?_⟩
    · rw [if_pos hemit]
      exact congrArg Host.Outcome.next (if_pos hemit)
    · rw [if_pos hemit]
      exact fun hsilent => absurd hsilent.symm Bool.false_ne_true
  · refine ⟨s.payload.val, (execSubmit_eq ..).trans ?_, ?_⟩
    · rw [if_neg hemit]
      exact congrArg Host.Outcome.next (if_neg hemit)
    · rw [if_neg hemit]
      exact fun _ => rfl

/-- What is fetched does not depend on the rate, and of the three operations a command word selects only SUBMIT reads
it (R61, R132). -/
theorem step_builtFor {s t : State} (h : step s = .next t) (r : FrameRate) :
    ∃ v : BitVec 6,
      step (s.builtFor r) = .next { t.builtFor r with payload := { t.payload with val := v } } ∧
      (t.evValid = false → v = t.payload.val) := by
  have hstep : step (s.builtFor r) = exec (decode s.fetch) (s.afterSample.builtFor r) := rfl
  rw [hstep]
  unfold step at h
  rcases decodeCommand_cases s.pins.cmd (tsReg s.cfg s.pins.bitTs) with hd | hd | ⟨b, hd⟩ <;>
    rw [State.fetch, decode, hd] at h ⊢
  · obtain rfl := Host.Outcome.next.inj h
    exact ⟨_, rfl, fun _ => rfl⟩
  · obtain rfl := Host.Outcome.next.inj h
    exact ⟨_, rfl, fun _ => rfl⟩
  · exact execSubmit_builtFor h r

/-- Settles O51: the SUBMIT cut at VALIDATE is `afterValidate_withVal`, and another rate is `step_builtFor`. -/
theorem validatorGatesNothing : Obligations.ValidatorGatesNothing := by
  refine ⟨fun s b ts v => ?_, fun s t r h => step_builtFor h r⟩
  exact ⟨_, _, _, execAll_partsBeforeValidate b s.settle, execAll_partsAfterValidate ts _, exec_submit_eq_cut b ts s,
    afterValidate_withVal (beforeValidate_silent b s.settle) v ts⟩

end Sys2Proof.Machine
end

section
/-! PROOFS of family 60_exceptions: malformed timecodes and the six flags (R142, R130), and what a SUBMIT raises (R141,
R147). -/

namespace Sys2Proof.Machine

/-! ### Malformed timecodes -/

theorem packFlags_eq_allOnes_iff (df hh mm ss ff bcd : Bool) :
    packFlags df hh mm ss ff bcd = 0b111111#6 ↔
      df = true ∧ hh = true ∧ mm = true ∧ ss = true ∧ ff = true ∧ bcd = true := by
  revert df hh mm ss ff bcd
  decide

/-- The six flags of an event are all 1 when drop-frame suits the rate, the values are in range and the units are decimal
digits (R130). -/
theorem decodedPayload_val_eq_allOnes_iff (c : Config) (f : FrameWord) (ts : Nat) :
    (decodedPayload c f ts).val = 0b111111#6 ↔
      ((fieldsOf f).dropFrame = false ∨ fpsValue c.fps = 30) ∧
      (fieldsOf f).hoursUnits.toNat + 10 * (fieldsOf f).hoursTens.toNat ≤ 23 ∧
      (fieldsOf f).minutesUnits.toNat + 10 * (fieldsOf f).minutesTens.toNat ≤ 59 ∧
      (fieldsOf f).secondsUnits.toNat + 10 * (fieldsOf f).secondsTens.toNat ≤ 59 ∧
      (fieldsOf f).framesUnits.toNat + 10 * (fieldsOf f).framesTens.toNat < fpsValue c.fps ∧
      (fieldsOf f).framesUnits.toNat ≤ 9 ∧ (fieldsOf f).secondsUnits.toNat ≤ 9 ∧
      (fieldsOf f).minutesUnits.toNat ≤ 9 ∧ (fieldsOf f).hoursUnits.toNat ≤ 9 := by
  obtain ⟨hhh, hmm, hss, hff⟩ := toNat_decodedPayload c f ts
  rw [← hhh, ← hmm, ← hss, ← hff, ← dropFrameFlag_eq, ← dropFrameOk_iff]
  refine (packFlags_eq_allOnes_iff ..).trans ?_
  rw [bcdOk_iff, hoursOk, sixtyOk, sixtyOk, framesOk]
  simp only [decide_eq_true_eq]
  rfl

/-- E2 (R142) at its complement: every units digit decimal and every value in range. -/
theorem malformedTimecode_eq_false_iff (x : FrameFields) :
    malformedTimecode x = false ↔
      x.hoursUnits.toNat + 10 * x.hoursTens.toNat ≤ 23 ∧ x.minutesUnits.toNat + 10 * x.minutesTens.toNat ≤ 59 ∧
      x.secondsUnits.toNat + 10 * x.secondsTens.toNat ≤ 59 ∧ x.framesUnits.toNat + 10 * x.framesTens.toNat < 30 ∧
      x.framesUnits.toNat ≤ 9 ∧ x.secondsUnits.toNat ≤ 9 ∧ x.minutesUnits.toNat ≤ 9 ∧ x.hoursUnits.toNat ≤ 9 := by
  simp only [malformedTimecode, Bool.or_eq_false_iff, decide_eq_false_iff_not]
  omega

/-- At the rate of 30 the ranges of VALIDATE are those of the Timecode record, and drop-frame suits the rate (R130,
R142). -/
theorem malformedTimecode_iff_flags {c : Config} (hfps : c.fps = .fps30) (y : FrameFields) (ts : Nat) :
    malformedTimecode y = true ↔ (eventOfFields c y ts).val ≠ 0b111111#6 := by
  have hrate : fpsValue c.fps = 30 := congrArg fpsValue hfps
  have hval := decodedPayload_val c (encodeFrame y) ts
  have hflags := decodedPayload_val_eq_allOnes_iff c (encodeFrame y) ts
  rw [fieldsOf_encodeFrame] at hval hflags
  rw [← hval, Ne, hflags, hrate, ← malformedTimecode_eq_false_iff]
  simp

/-- Settles O8: an LTC_FRAME word presents the event of its fields whatever they are, and the flags of that event are
`malformedTimecode_iff_flags`. -/
theorem malformedTimecodeIsEmittedAsComputed : Obligations.MalformedTimecodeIsEmittedAsComputed := by
  intro s y ts hwf hts
  exact ⟨_, exec_ltcFrame_eq_emitting hwf hts y, rfl, rfl, rfl, rfl, fun hfps => malformedTimecode_iff_flags hfps y ts⟩

/-! ### What a SUBMIT raises -/

/-- SyncMismatch is raised on a full window without the sync word, and no other class ever (R141, R147). -/
theorem submitRaises_eq_some_iff (s : State) (b : Bit) (e : ErrorClass) :
    submitRaises s b = some e ↔
      e = .syncMismatch ∧ 79 ≤ s.cnt.val ∧ slice (windowAfter s.w b).toNat 64 16 ≠ 0xBFFC := by
  rw [submitRaises, isFull_countedUp, ← windowAfter_eq_shiftedIn, Option.ite_none_right_eq_some, Bool.and_eq_true,
    decide_eq_true_iff, Bool.not_eq_true', ← Bool.not_eq_true, syncMatches_iff_slice, Option.some_inj, eq_comm (b := e),
    and_comm]

/-- The registers that an operation without event leaves, for a window that stays a variable: the kernel would compute
`windowAfter` while it unfolds the updates. -/
theorem State.keeping_eq (s : State) (w : FrameWord) (c : Fin 81) :
    s.keeping w c = { s with w := w, cnt := c, evValid := false, wires := .quiet } := rfl

/-- From count 79 on, a SUBMIT without the sync word keeps the shifted window, full (R94). -/
theorem exec_submit_of_full_no_sync {s : State} {b : Bit} (hcnt : 79 ≤ s.cnt.val)
    (hsync : slice (windowAfter s.w b).toNat 64 16 ≠ 0xBFFC) (ts : Nat) :
    exec (.submit b ts) s =
      .next { s with w := windowAfter s.w b, cnt := 80, evValid := false, wires := .quiet } := by
  have hfull : countedUp s.cnt = 80 := Fin.ext (cnt_keeping_of_ge hcnt (windowAfter s.w b))
  rw [exec_submit_of_no_match (fun h => hsync h.2), hfull, State.keeping_eq]

/-- Settles O56: the class raised is `submitRaises_eq_some_iff`, and its condition is that of the SUBMIT that keeps a full
window. -/
theorem syncMismatchIsSilent : Obligations.SyncMismatchIsSilent := by
  intro s b ts
  refine ⟨(submitRaises_eq_some_iff s b _).trans (and_iff_right rfl), fun e h => ?_⟩
  obtain ⟨he, hcnt, hsync⟩ := (submitRaises_eq_some_iff s b e).mp h
  exact ⟨he, _, exec_submit_of_full_no_sync hcnt hsync ts⟩

end Sys2Proof.Machine
end

section
/-! PROOFS of family 70_reset_and_hazards: the reset state (R162), the edges in which no event can come (R165, R171),
and back-to-back frames (R172). -/

namespace Sys2Proof.Machine

/-! ### Reset and the blind interval -/

/-- Settles O1: every register of the reset state is 0, at any parameters (R162). -/
theorem resetStateHoldsTheStatedValues : Obligations.ResetStateHoldsTheStatedValues := by
  intro s h
  obtain ⟨c, l, rfl⟩ : ∃ c l, s = State.resetWith c l := h.elim (fun hs => ⟨_, _, hs⟩) id
  exact ⟨rfl, rfl, rfl, rfl, rfl, rfl, rfl, rfl, rfl, rfl, rfl, rfl, rfl, State.win_of_cnt_zero rfl, rfl, rfl⟩

/-- A step that does not fill the window gives no event and counts at most one sample (R84, R86). -/
theorem event_cnt_of_step {s t : State} (h : step s = .next t) (hcnt : s.cnt.val < 79) :
    t.event = none ∧ t.cnt.val ≤ s.cnt.val + 1 := by
  obtain ⟨u, hu, hcases⟩ := step_cases s
  obtain rfl : u = t := Host.Outcome.next.inj (hu.symm.trans h)
  rcases hcases with rfl | rfl | ⟨b, ts, -, hsub⟩
  · exact ⟨rfl, Nat.zero_le _⟩
  · exact ⟨rfl, Nat.le_succ _⟩
  · rcases execSubmit_cases b ts s.afterSample with ⟨hfull, -, -⟩ | ⟨-, e⟩
    · exact absurd hfull (Nat.not_le.mpr hcnt)
    · obtain rfl := Host.Outcome.next.inj (hsub.symm.trans e)
      exact ⟨rfl, Nat.min_le_left _ _⟩

/-- Settles O45: each of the `k` edges counts at most one sample, so none of them fills the window. -/
theorem noEventBeforeTheWindowFills : Obligations.NoEventBeforeTheWindowFills := by
  intro s k hcnt
  induction k generalizing s with
  | zero => rw [State.events]
  | succ k ih =>
    obtain ⟨t, ht, -⟩ := step_cases s
    obtain ⟨hevent, hle⟩ := event_cnt_of_step ht (by omega)
    rw [State.events_succ ht, hevent, ih t (by omega)]
    rfl

/-! ### Back-to-back frames -/

theorem sampleStream_append_append (xs ys : List (Bit × Nat)) (rest : List Pins) :
    sampleStream (xs ++ ys) ++ rest = sampleStream xs ++ (sampleStream ys ++ rest) := by
  rw [sampleStream, List.map_append, List.append_assoc, sampleStream, sampleStream]

/-- The bits of an LTC_FRAME word submitted from an empty window give its event alone, with the timestamp of the 80th
bit, and leave the window empty for what comes after them (R93, R95). -/
theorem run_of_frame {s : State} {f : FrameWord} {samples : List (Bit × Nat)} {rest : List Pins}
    (hf : isLtcFrame f = true) (hcnt : s.cnt = 0) (hwf : s.cfg.wf = true)
    (hinputs : s.inputs = sampleStream samples ++ rest) (hbits : samples.map Prod.fst = arrivalBits f)
    (hts : ∀ x ∈ samples, x.2 < 2 ^ s.cfg.tsW) :
    s.events samples.length = [eventOfFrame s.cfg f ((samples.map Prod.snd).getD 79 0)] ∧
      (s.after samples.length).cnt = 0 ∧ (s.after samples.length).inputs = rest := by
  rcases List.eq_nil_or_concat' samples with rfl | ⟨xs, x, rfl⟩
  · exact absurd ((congrArg List.length hbits).trans (length_arrivalBits f)) (by decide)
  · have hlen : xs.length = 79 := by simpa using congrArg List.length hbits
    have hlast : ((xs ++ [x]).map Prod.snd).getD 79 0 = x.2 := by simp [hlen]
    rw [List.map_append] at hbits
    obtain ⟨hsilent, hstep⟩ := step_of_last_frame_bit (rest := rest) hf hcnt
      (hinputs.trans (sampleStream_append_append xs [x] rest)) hbits
    have hx : x.2 < 2 ^ s.cfg.tsW := hts x (List.mem_append_right _ (List.mem_singleton_self x))
    rw [tsReg_of_lt hx, decodedPayload_eq_eventOfFields hwf hx, eventOfFields_fieldsOf] at hstep
    rw [hlast, List.length_append, List.length_singleton, State.events_add, State.after_add, hsilent,
      State.events_one hstep, State.after_one hstep]
    exact ⟨rfl, rfl, rfl⟩

/-- Frames one after another, by induction on the frames: each begins where the one before it left an empty window. -/
theorem run_of_frames (fs : List FrameWord) (samples : List (Bit × Nat)) (s : State) (rest : List Pins)
    (hfs : ∀ f ∈ fs, isLtcFrame f = true) (hcnt : s.cnt = 0) (hwf : s.cfg.wf = true)
    (hinputs : s.inputs = sampleStream samples ++ rest) (hbits : samples.map Prod.fst = fs.flatMap arrivalBits)
    (hts : ∀ x ∈ samples, x.2 < 2 ^ s.cfg.tsW) :
    s.events samples.length =
        fs.mapIdx (fun k f => eventOfFrame s.cfg f ((samples.map Prod.snd).getD (80 * k + 79) 0)) ∧
      (s.after samples.length).cnt = 0 := by
  induction fs generalizing samples s with
  | nil =>
    obtain rfl := List.map_eq_nil_iff.mp hbits
    exact ⟨rfl, hcnt⟩
  | cons f fs ih =>
    obtain ⟨hf, hfs⟩ := List.forall_mem_cons.mp hfs
    obtain ⟨first, later, rfl, hfirst, hlater⟩ := List.map_eq_append_iff.mp hbits
    obtain ⟨htsFirst, htsLater⟩ := List.forall_mem_append.mp hts
    obtain ⟨hevents, hempty, hleft⟩ := run_of_frame (rest := sampleStream later ++ rest) hf hcnt hwf
      (hinputs.trans (sampleStream_append_append first later rest)) hfirst htsFirst
    have hcfg := State.after_cfg s first.length
    obtain ⟨heventsLater, hemptyLater⟩ := ih later (s.after first.length) hfs hempty (hcfg ▸ hwf) hleft hlater
      (hcfg ▸ htsLater)
    have hlen : (first.map Prod.snd).length = 80 := by simpa using congrArg List.length hfirst
    rw [List.length_append, State.events_add, State.after_add, hevents, heventsLater, hcfg, List.mapIdx_cons,
      List.map_append, List.getD_append _ _ _ _ (by omega)]
    refine ⟨congrArg (_ :: ·) (congrArg (fs.mapIdx ·) ?_), hemptyLater⟩
    funext k g
    rw [List.getD_append_right _ _ _ _ (by omega), hlen, show 80 * (k + 1) + 79 - 80 = 80 * k + 79 by omega]

/-- Settles O46: the IDLEs among the bits change no event and no count (R170), and the bits without them are
`run_of_frames`. -/
theorem backToBackFramesEachGiveOneEvent : Obligations.BackToBackFramesEachGiveOneEvent := by
  intro s fs l rest hcnt hwf hinputs hr hfs hbits hts
  obtain ⟨hevents, v, x, hafter⟩ := events_of_samples l rest s hinputs hr
  rw [hevents, hafter]
  exact run_of_frames fs (samplesOf l) (s.withInputs (sampleStream (samplesOf l) ++ rest)) rest hfs hcnt hwf rfl
    hbits hts

end Sys2Proof.Machine
end
